-- ==== Sys2Proof/Word.lean ====
section
/-! DEFINITION. The values the block works on: bytes of the control interface, the spec's reals, angles, and stereo frames.

Samples, gains and parameter values are reals and the reference semantics is exact real arithmetic (00_scope R9). Every
definition of the block is over a type K of numbers with an arithmetic of its own: at ℝ it is the reference
(Machine/Reference.lean), at binary64 numbers the implementation's (Machine/Binary64.lean). A type written without its K is the
one over `Scalar`, of which the machine behind the host's interface is made. -/

namespace Sys2Proof

/-- A byte of the control interface (00_scope R8); a *data byte* is one below 128. -/
abbrev Byte := BitVec 8

/-- The numbers of the machine behind the host's interface: exact rationals, so that its state is plain data.
DESIGN CHOICE, notes/assumptions/1.md. -/
abbrev Scalar := Rat

/-- An angle (45_chorus_moddelay R320), in the unit of the NUMERICS configuration: `Numerics.pi` of that unit is π. The unit is
the radian over the reals and over binary64 numbers, and the half turn over the rationals. notes/assumptions/3.md. -/
structure Angle (K : Type := Rat) where
  /-- How many units the angle has. -/
  val : K
deriving DecidableEq, Repr, Inhabited

/-- A frame: one stereo pair of samples (00_scope R11). -/
@[ext] structure Stereo (K : Type := Rat) where
  l : K
  r : K
deriving DecidableEq, Repr, Inhabited

/-- The four generic parameters a registry processor consumes (43_registry R270). -/
structure GenericParams (K : Type := Rat) where
  p1 : K
  p2 : K
  p3 : K
  p4 : K
deriving DecidableEq, Repr, Inhabited

/-- `ExtState(t)` (10_state R81): an opaque record of a processor outside the block, held as plain data.
DESIGN CHOICE, notes/assumptions/6.md. -/
abbrev ExtRecord (K : Type := Rat) := List K

end Sys2Proof
end

