-- ==== Sys2Proof/Config.lean ====
section
/-! DEFINITION. What the block is built with: the model parameters of 00_scope R7, which stay for the block's lifetime
(70_reset_and_hazards R402), and the functions the spec leaves free. -/

namespace Sys2Proof

/-- The functions of the NUMERICS configuration (00_scope R9): "the model assumes of them only that they are total functions
of their arguments". sin and cos take angles. `divByZero` is the model's own free value
(notes/assumptions/2.md, 3.md and 4.md). -/
structure Functions (K : Type := Rat) where
  sin : Angle K → K
  cos : Angle K → K
  exp : K → K
  sqrt : K → K
  /-- `pow x y` is x^y. -/
  pow : K → K → K
  /-- `pow10 x` is 10^x. -/
  pow10 : K → K
  /-- What a quotient by zero is: a free function of the dividend. -/
  divByZero : K → K
deriving Inhabited

/-- The NUMERICS configuration (00_scope R7, R9; 93_implementation_defined U7: a parameter of the model): the functions, the
floor of a number, and π. The arithmetic itself (0, 1, +, −, ·, /, the order, min and max, and how an integer is held) comes with the
type K of the numbers: real arithmetic at ℝ (Machine/Reference.lean), IEEE-754 binary64 at `Binary64` (Machine/Binary64.lean).
notes/assumptions/1.md and 21.md. -/
structure Numerics (K : Type := Rat) extends Functions K where
  /-- `floor(x)` (00_scope R8). -/
  floor : K → Int
  /-- π, in the unit in which the angles are held: in radians the number π itself, in half turns 1 (notes/assumptions/3.md). -/
  pi : K
deriving Inhabited

section Exact
variable {K : Type} [Field K] [LinearOrder K] [FloorRing K]

/-- Exact arithmetic (00_scope R9, "the reference semantics of every rule"), with a given π and given functions: over a field its
own operations, and its own floor. -/
def Numerics.exact (pi : K) (f : Functions K) : Numerics K := { f with floor := Int.floor, pi := pi }

/-- What exact arithmetic has, whatever its functions: π is positive, and the floor is the greatest integer ≤ x (00_scope R8). -/
structure Numerics.IsExact (n : Numerics K) : Prop where
  pi_pos : 0 < n.pi
  floor_eq : ∀ x : K, n.floor x = ⌊x⌋

end Exact

/-- The processors of the type ids outside the block (43_registry R276): `run t x p st` is `ExtProc(t)` and `init t` is
`ExtInit(t)`, for t in [5, 127]. -/
structure ExtProcs (K : Type := Rat) where
  run : Nat → Stereo K → GenericParams K → ExtRecord K → Stereo K × ExtRecord K
  init : Nat → ExtRecord K
deriving Inhabited

/-- The default of 43_registry R276: the identity, with an empty record. -/
def ExtProcs.identity {K : Type} : ExtProcs K where
  run := fun _ x _ st => (x, st)
  init := fun _ => []

/-- PAN_MODE (41_mixing R228). -/
inductive PanMode where
  /-- Both gains multiply the frame's mono sum: the spec's value. -/
  | monoSum
  /-- Each gain multiplies its own side: the alternative. -/
  | perSide
deriving DecidableEq, Repr

/-- The model parameters of 00_scope R7, one field each. -/
structure Config (K : Type := Rat) where
  /-- SAMPLE_RATE, frames per second. -/
  fs : K
  vendorId : Byte
  pcSubstatus : Byte
  pdCap : Nat
  combCap : Nat
  combK : K
  combG0 : K
  combGStep : K
  combDamp : K
  /-- AP_LEN[0..3]. -/
  apLen : Vector Nat 4
  apG : K
  chorusCap : Nat
  chorusDepthMax : K
  chorusFbMax : K
  /-- CHORUS_R_PHASE0, the initial right LFO phase. -/
  chorusRPhase0 : Angle K
  flangerCap : Nat
  flangerBase : K
  flangerDepthMax : K
  flangerFbMax : K
  gateAtten : K
  eqLowFreq : K
  eqHighFreq : K
  panMode : PanMode
  num : Numerics K
  ext : ExtProcs K

section Parameters
variable {K : Type} [Zero K] [One K] [Add K] [Sub K] [Mul K] [Div K] [Neg K] [NatCast K] [IntCast K] [Max K] [Min K]
  [LT K] [DecidableLT K] [DecidableEq K]

/-- The third column of 00_scope R7, over given NUMERICS functions and external processors. -/
def Config.r7 (num : Numerics K) (ext : ExtProcs K) : Config K where
  fs := 44100
  vendorId := 0x43
  pcSubstatus := 0x10
  pdCap := 1024
  combCap := 16384
  combK := 5 / 1000
  combG0 := 70 / 100
  combGStep := 2 / 100
  combDamp := 1 / 2
  apLen := #v[556, 441, 341, 225]
  apG := 1 / 2
  chorusCap := 2048
  chorusDepthMax := 5 / 1000
  chorusFbMax := 45 / 100
  chorusRPhase0 := ⟨num.pi / 2⟩
  flangerCap := 256
  flangerBase := 3 / 1000
  flangerDepthMax := 2 / 1000
  flangerFbMax := 9 / 10
  gateAtten := 1 / 2
  eqLowFreq := 200
  eqHighFreq := 5000
  panMode := .monoSum
  num := num
  ext := ext

end Parameters

/-- The NUMERICS functions of the machine: free (00_scope R9, notes/assumptions/2.md). -/
opaque Config.functions : Functions

/-- The NUMERICS configuration of the machine: exact arithmetic, angles in half turns, and free functions. -/
def Config.numerics : Numerics := Numerics.exact 1 Config.functions

/-- The external processors of the machine: free (43_registry R276: "a claim that depends on the output of such a type
must take ExtProc(t) as a hypothesis"; notes/assumptions/6.md). -/
opaque Config.extProcs : ExtProcs

/-- The configuration of the machine behind the host's interface (notes/assumptions/5.md); `Machine.stepFor` takes any. -/
def Config.machine : Config := Config.r7 Config.numerics Config.extProcs

section Constraints
variable {K : Type} [Zero K] [One K] [Add K] [Sub K] [Mul K] [Div K] [Neg K] [NatCast K] [IntCast K] [Max K] [Min K]
  [LT K] [DecidableLT K] [DecidableEq K]

/-- `ceil(x)`, the least integer ≥ x (00_scope R7). -/
def Numerics.ceil (n : Numerics K) (x : K) : Int := -n.floor (-x)

/-- "Constraints a model must check on arguments" (00_scope R7), in the order the rule gives them. -/
def Config.admissible (c : Config K) : Bool :=
  decide (0 < c.fs) &&
  decide (c.num.floor ((127 / 10000) * c.fs) < (c.pdCap : Int)) &&
  decide (c.num.floor ((83 / 10) * c.fs * c.combK * 8) < (c.combCap : Int)) &&
  c.apLen.toList.all (fun n => decide (1 ≤ n)) &&
  decide (c.num.ceil (((30 / 1000) + c.chorusDepthMax) * c.fs) + 2 ≤ (c.chorusCap : Int)) &&
  decide (c.num.ceil ((c.flangerBase + c.flangerDepthMax) * c.fs) + 2 ≤ (c.flangerCap : Int)) &&
  decide (c.eqHighFreq < c.fs / 2) && decide (10000 < c.fs / 2) &&
  decide (c.combG0 + c.combGStep * (8 - 1) < 1) &&
  decide (2 * c.chorusFbMax < 1) && decide (c.flangerFbMax < 1) &&
  decide (0 < c.apG) && decide (c.apG < 1)

/-- The parameters a block can be built with: they meet the constraints of 00_scope R7, every ring has a capacity of at
least 1 (20_memory R100; AP_LEN is among the constraints), and the initial phase lies in [0, 2π) (10_state R75). -/
def Config.valid (c : Config K) : Bool :=
  c.admissible && decide (1 ≤ c.pdCap) && decide (1 ≤ c.combCap) && decide (1 ≤ c.chorusCap) &&
  decide (1 ≤ c.flangerCap) && !decide (c.chorusRPhase0.val < 0) && decide (c.chorusRPhase0.val < 2 * c.num.pi)

end Constraints

end Sys2Proof
end

