-- ==== Sys2Proof/Machine/Operands.lean ====
section
/-! DEFINITION. Operand forms and arithmetic helpers: the number notation of 00_scope R8, the assembly of 14-bit values,
frames as pairs (00_scope R10, R11), and arithmetic that rests on the NUMERICS functions. -/

namespace Sys2Proof.Machine

variable {K : Type} [Zero K] [One K] [Add K] [Sub K] [Mul K] [Div K] [Neg K] [NatCast K] [IntCast K] [Max K] [Min K]
  [LT K] [DecidableLT K] [DecidableEq K]

/-- `clamp(x, lo, hi)` is min(hi, max(lo, x)) (00_scope R8). -/
def clampScalar (x lo hi : K) : K := min hi (max lo x)

/-- `clamp` on integers (00_scope R8). -/
def clampInt (x lo hi : Int) : Int := min hi (max lo x)

/-- `rhu(x)` is floor(x + 1/2) (00_scope R8). -/
def roundHalfUp (n : Numerics K) (x : K) : Int := n.floor (x + 1 / 2)

/-- `a mod m` on reals: the r in [0, m) with a − r an integer multiple of m, for m > 0 (00_scope R8, 45_chorus_moddelay
R322). -/
def modScalar (n : Numerics K) (a m : K) : K := a - m * n.floor (a / m)

/-- The sum of a list from its first element on: `t <- 0; for x: t <- t + x`. The order shows only under rounding. -/
def sumInOrder (xs : List K) : K := xs.foldl (· + ·) 0

/-- |x|. -/
def absScalar (x : K) : K := max x (-x)

/-- x / y where y depends on a NUMERICS function or a register. 60_exceptions R394: no rule divides by zero; a quotient by
zero is a free value, never Lean's 0. DESIGN CHOICE, notes/assumptions/4.md. -/
def quot (n : Numerics K) (x y : K) : K := if y = 0 then n.divByZero x else x / y

/-! ## Angles -/

/-- 2π, in the unit of the angles. -/
def twoPi (n : Numerics K) : K := 2 * n.pi

/-- `a mod 2π`, in [0, 2π) (45_chorus_moddelay R322). -/
def wrapAngle (n : Numerics K) (a : Angle K) : Angle K := ⟨modScalar n a.val (twoPi n)⟩

/-! ## Bytes and values -/

/-- A data byte carries 7 bits (00_scope R8). -/
def isDataByte (b : Byte) : Bool := decide (b.toNat ≤ 127)

/-- The 14-bit value `v = vH·128 + vL` (30_encoding R139). -/
def value14 (vH vL : Byte) : Nat := vH.toNat * 128 + vL.toNat

/-- `v[13:7]` of a value, as a byte (30_encoding R139, `v >> 7`). -/
def highByte (v : Nat) : Byte := BitVec.ofNat 8 (v / 128)

/-- `v[6:0]` of a value, as a byte (30_encoding R139, `v & 0x7F`). -/
def lowByte (v : Nat) : Byte := BitVec.ofNat 8 (v % 128)

/-! ## Frames -/

/-- The silent frame (0.0, 0.0). -/
def silence : Stereo K := ⟨0, 0⟩

/-- `(l, r) + (l', r') = (l+l', r+r')` (00_scope R10). -/
def addFrame (x y : Stereo K) : Stereo K := ⟨x.l + y.l, x.r + y.r⟩

/-- `k · (l, r) = (k·l, k·r)` (00_scope R10). -/
def scaleFrame (k : K) (x : Stereo K) : Stereo K := ⟨k * x.l, k * x.r⟩

/-- The level detector `e(x) = max(|x.l|, |x.r|)` (46_dynamics R350). -/
def levelOf (x : Stereo K) : K := max (absScalar x.l) (absScalar x.r)

/-- `Lin(T) = 10^(T / 20)` (46_dynamics R353). -/
def linearLevel (n : Numerics K) (t : K) : K := n.pow10 (t / 20)

end Sys2Proof.Machine
end

