-- ==== Sys2Proof/Syntax.lean ====
section
/-! DEFINITION. The syntax of the control interface: the parameter registers a command can carry (a snapshot is an operand
of SET), the items of the command port, and the instructions: one constructor for each row of spec/opcode_table.json. -/

namespace Sys2Proof

/-! ## Parameter registers (10_state R20 to R69)

Real-valued fields hold any real in their legal range, index fields hold integers, flags hold booleans (10_state section 2).
Index fields are `Int`, since a host's snapshot may carry any integer (40_protocol R196; notes/assumptions/13.md). -/

/-- REVERB entity (10_state R21 to R25). -/
structure ReverbParams (K : Type := Rat) where
  /-- R21, legal values [0.1, 8.3] s. -/
  time : K
  /-- R22, legal values [0.0, 0.0127] s. -/
  preDelay : K
  /-- R23, legal values [0.0, 1.0] ratio. -/
  hfDamping : K
  /-- R24, legal values [0.0, 1.0] ratio. -/
  density : K
  /-- R25, legal values [0.0, 1.0] ratio. -/
  level : K
deriving DecidableEq, Repr

/-- CHORUS entity (10_state R26 to R32). -/
structure ChorusParams (K : Type := Rat) where
  /-- R26, legal values [0.0, 10.0] Hz. -/
  rate : K
  /-- R27, legal values [0.0, 1.0] ratio. -/
  depth : K
  /-- R28, legal values [0.0, 1.0] ratio. -/
  feedback : K
  /-- R29, legal values [0.0, 1.0] ratio. -/
  crossFeedback : K
  /-- R30, legal values [0.001, 0.03] s. -/
  baseDelay : K
  /-- R31, legal values [0.0, 1.0] ratio. -/
  output : K
  /-- R32, legal values [0.0, 1.0] ratio. -/
  level : K
deriving DecidableEq, Repr

/-- VARIATION entity (10_state R33 to R39). -/
structure VariationParams (K : Type := Rat) where
  /-- R33, legal values integer [0, 127] (type id). -/
  typeId : Int
  /-- R34, legal values [0.0, 1.0] ratio. -/
  param1 : K
  /-- R35, legal values [0.0, 1.0] ratio. -/
  param2 : K
  /-- R36, legal values [0.0, 1.0] ratio. -/
  param3 : K
  /-- R37, legal values [0.0, 1.0] ratio. -/
  param4 : K
  /-- R38, legal values [0.0, 1.0] ratio. -/
  level : K
  /-- R39, legal values {false, true}. -/
  bypass : Bool
deriving DecidableEq, Repr

/-- EQUALIZER entity (10_state R40 to R44). -/
structure EqParams (K : Type := Rat) where
  /-- R40, legal values [-12.0, 12.0] dB. -/
  lowGain : K
  /-- R41, legal values [-12.0, 12.0] dB. -/
  midGain : K
  /-- R42, legal values [-12.0, 12.0] dB. -/
  highGain : K
  /-- R43, legal values [100.0, 10000.0] Hz. -/
  midFreq : K
  /-- R44, legal values [0.5, 10.0] Q. -/
  midQ : K
deriving DecidableEq, Repr

/-- ROUTING entity (10_state R45 to R51). -/
structure RoutingParams (K : Type := Rat) where
  /-- R45, legal values integer [0, 5] (permutation index). -/
  effectOrder : Int
  /-- R46, legal values [0.0, 1.0] ratio. -/
  sendReverbToChorus : K
  /-- R47, legal values [0.0, 1.0] ratio. -/
  sendReverbToVariation : K
  /-- R48, legal values [0.0, 1.0] ratio. -/
  sendChorusToReverb : K
  /-- R49, legal values [0.0, 1.0] ratio. -/
  sendChorusToVariation : K
  /-- R50, legal values [0.0, 1.0] ratio. -/
  sendVariationToReverb : K
  /-- R51, legal values [0.0, 1.0] ratio. -/
  sendVariationToChorus : K
deriving DecidableEq, Repr

/-- GLOBAL entity (10_state R52 to R54). -/
structure GlobalParams (K : Type := Rat) where
  /-- R52, legal values [0.0, 1.0] ratio. -/
  masterLevel : K
  /-- R53, legal values {false, true}. -/
  bypass : Bool
  /-- R54, legal values integer [0, 15] (channel). -/
  currentChannel : Int
deriving DecidableEq, Repr

/-- P: the system parameter sets, one copy (10_state R20). -/
structure Params (K : Type := Rat) where
  reverb : ReverbParams K
  chorus : ChorusParams K
  variation : VariationParams K
  eq : EqParams K
  routing : RoutingParams K
  global : GlobalParams K
deriving DecidableEq, Repr

/-- One channel bank CH[c], with its embedded insertion parameters (10_state R20, R55 to R70). -/
structure Channel (K : Type := Rat) where
  /-- R55, legal values integer [0, 127] (type id). -/
  insType : Int
  /-- R56, legal values [0.0, 1.0] ratio. -/
  insParam1 : K
  /-- R57, legal values [0.0, 1.0] ratio. -/
  insParam2 : K
  /-- R58, legal values [0.0, 1.0] ratio. -/
  insParam3 : K
  /-- R59, legal values [0.0, 1.0] ratio. -/
  insParam4 : K
  /-- R60, legal values [0.0, 1.0] ratio. -/
  insLevel : K
  /-- R61, legal values {false, true}. -/
  insBypass : Bool
  /-- R62, legal values [0.0, 1.0] ratio. -/
  reverbSend : K
  /-- R63, legal values [0.0, 1.0] ratio. -/
  chorusSend : K
  /-- R64, legal values [0.0, 1.0] ratio. -/
  variationSend : K
  /-- R65, legal values [0.0, 1.0] ratio. -/
  insertionSend : K
  /-- R66, legal values [0.0, 1.0] (0.0 = left, 1.0 = right). -/
  pan : K
  /-- R67, legal values [0.0, 1.0] gain. -/
  volume : K
  /-- R68, legal values {false, true}. -/
  mute : Bool
  /-- R69, legal values {false, true}. -/
  solo : Bool
deriving DecidableEq, Repr

/-- `Snapshot = (P, CH[0..15])` (30_encoding R136): what GET returns and SET takes. -/
structure Snapshot (K : Type := Rat) where
  p : Params K
  ch : Vector (Channel K) 16
deriving DecidableEq, Repr

/-! ## The command port -/

/-- One item of the command port. The control interface is a byte stream; the reals of PROC and the snapshot of SET are
"carried as the host transport defines" (30_encoding R135, R136) and have no byte layout (20_memory R108), so each is an
item of its own. DESIGN CHOICE, notes/assumptions/7.md. -/
inductive PortItem (K : Type := Rat) where
  | byte (b : Byte)
  | real (x : K)
  | snapshot (s : Snapshot K)
deriving DecidableEq, Repr

/-! ## Instructions -/

/-- The commands of 30_encoding R131 and the rows of spec/opcode_table.json, one constructor each. A PU record whose
address is in the descriptor table is the row of that address (`puReverbTime` … `puChSolo`), and a SysEx record with a
recognised layout is the row of that layout; `pu` and `sx` are the records left over (notes/assumptions/12.md). -/
inductive Instr (K : Type := Rat) where
  /-- PU (40_protocol R180): channel byte, address, value bytes. -/
  | pu (ch aH aL vH vL : Byte)
  /-- SX (40_protocol R186): vendor bytes and body. -/
  | sx (vendor body : List Byte)
  /-- SX.PARAM_CHANGE (30_encoding R144): body `[dev, 0x10, aH, aL, value, ...tail]`. -/
  | sxParamChange (dev aH aL value : Byte) (tail : List Byte)
  /-- SX.BULK_SYSTEM (30_encoding R145): body `[dev, 0x00, 0x03, ...records]`. -/
  | sxBulkSystem (dev : Byte) (records : List Byte)
  /-- SX.BULK_CHANNEL (30_encoding R146): body `[dev, 0x00, 0x04, ...records]`. -/
  | sxBulkChannel (dev : Byte) (records : List Byte)
  /-- ENC.SYS (40_protocol R191, scope 0x00). -/
  | encSys
  /-- ENC.CHAN (40_protocol R191, scope 0x01). -/
  | encChan
  /-- PROC (41_mixing R220): input frames and level multipliers. -/
  | proc (frames : List (Stereo K)) (levels : List K)
  /-- GET (40_protocol R195). -/
  | get
  /-- SET (40_protocol R196). -/
  | set (snap : Snapshot K)
  /-- RST (40_protocol R197). -/
  | rst
  /-- PU.REVERB_TIME: the PU write of `reverb.time` at (0x00, 0x00) (10_state R21). -/
  | puReverbTime (ch vH vL : Byte)
  /-- PU.REVERB_PRE_DELAY: the PU write of `reverb.pre_delay` at (0x00, 0x01) (10_state R22). -/
  | puReverbPreDelay (ch vH vL : Byte)
  /-- PU.REVERB_HF_DAMPING: the PU write of `reverb.hf_damping` at (0x00, 0x02) (10_state R23). -/
  | puReverbHfDamping (ch vH vL : Byte)
  /-- PU.REVERB_DENSITY: the PU write of `reverb.density` at (0x00, 0x03) (10_state R24). -/
  | puReverbDensity (ch vH vL : Byte)
  /-- PU.REVERB_LEVEL: the PU write of `reverb.level` at (0x00, 0x04) (10_state R25). -/
  | puReverbLevel (ch vH vL : Byte)
  /-- PU.CHORUS_RATE: the PU write of `chorus.rate` at (0x00, 0x08) (10_state R26). -/
  | puChorusRate (ch vH vL : Byte)
  /-- PU.CHORUS_DEPTH: the PU write of `chorus.depth` at (0x00, 0x09) (10_state R27). -/
  | puChorusDepth (ch vH vL : Byte)
  /-- PU.CHORUS_FEEDBACK: the PU write of `chorus.feedback` at (0x00, 0x0A) (10_state R28). -/
  | puChorusFeedback (ch vH vL : Byte)
  /-- PU.CHORUS_CROSS_FEEDBACK: the PU write of `chorus.cross_feedback` at (0x00, 0x0B) (10_state R29). -/
  | puChorusCrossFeedback (ch vH vL : Byte)
  /-- PU.CHORUS_BASE_DELAY: the PU write of `chorus.base_delay` at (0x00, 0x0C) (10_state R30). -/
  | puChorusBaseDelay (ch vH vL : Byte)
  /-- PU.CHORUS_OUTPUT: the PU write of `chorus.output` at (0x00, 0x0D) (10_state R31). -/
  | puChorusOutput (ch vH vL : Byte)
  /-- PU.CHORUS_LEVEL: the PU write of `chorus.level` at (0x00, 0x0E) (10_state R32). -/
  | puChorusLevel (ch vH vL : Byte)
  /-- PU.VARIATION_TYPE: the PU write of `variation.type` at (0x00, 0x10) (10_state R33). -/
  | puVariationType (ch vH vL : Byte)
  /-- PU.VARIATION_PARAM1: the PU write of `variation.param1` at (0x00, 0x11) (10_state R34). -/
  | puVariationParam1 (ch vH vL : Byte)
  /-- PU.VARIATION_PARAM2: the PU write of `variation.param2` at (0x00, 0x12) (10_state R35). -/
  | puVariationParam2 (ch vH vL : Byte)
  /-- PU.VARIATION_PARAM3: the PU write of `variation.param3` at (0x00, 0x13) (10_state R36). -/
  | puVariationParam3 (ch vH vL : Byte)
  /-- PU.VARIATION_PARAM4: the PU write of `variation.param4` at (0x00, 0x14) (10_state R37). -/
  | puVariationParam4 (ch vH vL : Byte)
  /-- PU.VARIATION_LEVEL: the PU write of `variation.level` at (0x00, 0x15) (10_state R38). -/
  | puVariationLevel (ch vH vL : Byte)
  /-- PU.VARIATION_BYPASS: the PU write of `variation.bypass` at (0x00, 0x16) (10_state R39). -/
  | puVariationBypass (ch vH vL : Byte)
  /-- PU.EQ_LOW_GAIN: the PU write of `eq.low_gain` at (0x00, 0x20) (10_state R40). -/
  | puEqLowGain (ch vH vL : Byte)
  /-- PU.EQ_MID_GAIN: the PU write of `eq.mid_gain` at (0x00, 0x21) (10_state R41). -/
  | puEqMidGain (ch vH vL : Byte)
  /-- PU.EQ_HIGH_GAIN: the PU write of `eq.high_gain` at (0x00, 0x22) (10_state R42). -/
  | puEqHighGain (ch vH vL : Byte)
  /-- PU.EQ_MID_FREQ: the PU write of `eq.mid_freq` at (0x00, 0x23) (10_state R43). -/
  | puEqMidFreq (ch vH vL : Byte)
  /-- PU.EQ_MID_Q: the PU write of `eq.mid_q` at (0x00, 0x24) (10_state R44). -/
  | puEqMidQ (ch vH vL : Byte)
  /-- PU.ROUTING_EFFECT_ORDER: the PU write of `routing.effect_order` at (0x00, 0x30) (10_state R45). -/
  | puRoutingEffectOrder (ch vH vL : Byte)
  /-- PU.ROUTING_SEND_REVERB_TO_CHORUS: the PU write of `routing.send_reverb_to_chorus` at (0x00, 0x31) (10_state R46). -/
  | puRoutingSendReverbToChorus (ch vH vL : Byte)
  /-- PU.ROUTING_SEND_REVERB_TO_VARIATION: the PU write of `routing.send_reverb_to_variation` at (0x00, 0x32) (10_state R47). -/
  | puRoutingSendReverbToVariation (ch vH vL : Byte)
  /-- PU.ROUTING_SEND_CHORUS_TO_REVERB: the PU write of `routing.send_chorus_to_reverb` at (0x00, 0x33) (10_state R48). -/
  | puRoutingSendChorusToReverb (ch vH vL : Byte)
  /-- PU.ROUTING_SEND_CHORUS_TO_VARIATION: the PU write of `routing.send_chorus_to_variation` at (0x00, 0x34) (10_state R49). -/
  | puRoutingSendChorusToVariation (ch vH vL : Byte)
  /-- PU.ROUTING_SEND_VARIATION_TO_REVERB: the PU write of `routing.send_variation_to_reverb` at (0x00, 0x35) (10_state R50). -/
  | puRoutingSendVariationToReverb (ch vH vL : Byte)
  /-- PU.ROUTING_SEND_VARIATION_TO_CHORUS: the PU write of `routing.send_variation_to_chorus` at (0x00, 0x36) (10_state R51). -/
  | puRoutingSendVariationToChorus (ch vH vL : Byte)
  /-- PU.GLOBAL_MASTER_LEVEL: the PU write of `global.master_level` at (0x00, 0x38) (10_state R52). -/
  | puGlobalMasterLevel (ch vH vL : Byte)
  /-- PU.GLOBAL_BYPASS: the PU write of `global.bypass` at (0x00, 0x39) (10_state R53). -/
  | puGlobalBypass (ch vH vL : Byte)
  /-- PU.GLOBAL_CURRENT_CHANNEL: the PU write of `global.current_channel` at (0x00, 0x3A) (10_state R54). -/
  | puGlobalCurrentChannel (ch vH vL : Byte)
  /-- PU.CH_INS_TYPE: the PU write of `ch.ins_type` at (0x00, 0x40) (10_state R55). -/
  | puChInsType (ch vH vL : Byte)
  /-- PU.CH_INS_PARAM1: the PU write of `ch.ins_param1` at (0x00, 0x41) (10_state R56). -/
  | puChInsParam1 (ch vH vL : Byte)
  /-- PU.CH_INS_PARAM2: the PU write of `ch.ins_param2` at (0x00, 0x42) (10_state R57). -/
  | puChInsParam2 (ch vH vL : Byte)
  /-- PU.CH_INS_PARAM3: the PU write of `ch.ins_param3` at (0x00, 0x43) (10_state R58). -/
  | puChInsParam3 (ch vH vL : Byte)
  /-- PU.CH_INS_PARAM4: the PU write of `ch.ins_param4` at (0x00, 0x44) (10_state R59). -/
  | puChInsParam4 (ch vH vL : Byte)
  /-- PU.CH_INS_LEVEL: the PU write of `ch.ins_level` at (0x00, 0x45) (10_state R60). -/
  | puChInsLevel (ch vH vL : Byte)
  /-- PU.CH_INS_BYPASS: the PU write of `ch.ins_bypass` at (0x00, 0x46) (10_state R61). -/
  | puChInsBypass (ch vH vL : Byte)
  /-- PU.CH_REVERB_SEND: the PU write of `ch.reverb_send` at (0x00, 0x47) (10_state R62). -/
  | puChReverbSend (ch vH vL : Byte)
  /-- PU.CH_CHORUS_SEND: the PU write of `ch.chorus_send` at (0x00, 0x48) (10_state R63). -/
  | puChChorusSend (ch vH vL : Byte)
  /-- PU.CH_VARIATION_SEND: the PU write of `ch.variation_send` at (0x00, 0x49) (10_state R64). -/
  | puChVariationSend (ch vH vL : Byte)
  /-- PU.CH_INSERTION_SEND: the PU write of `ch.insertion_send` at (0x00, 0x4A) (10_state R65). -/
  | puChInsertionSend (ch vH vL : Byte)
  /-- PU.CH_PAN: the PU write of `ch.pan` at (0x00, 0x4B) (10_state R66). -/
  | puChPan (ch vH vL : Byte)
  /-- PU.CH_VOLUME: the PU write of `ch.volume` at (0x00, 0x4C) (10_state R67). -/
  | puChVolume (ch vH vL : Byte)
  /-- PU.CH_MUTE: the PU write of `ch.mute` at (0x00, 0x4D) (10_state R68). -/
  | puChMute (ch vH vL : Byte)
  /-- PU.CH_SOLO: the PU write of `ch.solo` at (0x00, 0x4E) (10_state R69). -/
  | puChSolo (ch vH vL : Byte)
deriving DecidableEq, Repr

end Sys2Proof
end

