-- ==== Sys2Proof/Machine/Descriptors.lean ====
section
/-! DEFINITION. The descriptor table (30_encoding R141), the decode and encode transforms (R140, R142), and reading and
writing one parameter register by its row of the table. -/

namespace Sys2Proof.Machine

/-! ## Fields and values -/

/-- The 34 system-scope rows of 30_encoding R141. -/
inductive SysField where
  | reverbTime
  | reverbPreDelay
  | reverbHfDamping
  | reverbDensity
  | reverbLevel
  | chorusRate
  | chorusDepth
  | chorusFeedback
  | chorusCrossFeedback
  | chorusBaseDelay
  | chorusOutput
  | chorusLevel
  | variationType
  | variationParam1
  | variationParam2
  | variationParam3
  | variationParam4
  | variationLevel
  | variationBypass
  | eqLowGain
  | eqMidGain
  | eqHighGain
  | eqMidFreq
  | eqMidQ
  | routingEffectOrder
  | routingSendReverbToChorus
  | routingSendReverbToVariation
  | routingSendChorusToReverb
  | routingSendChorusToVariation
  | routingSendVariationToReverb
  | routingSendVariationToChorus
  | globalMasterLevel
  | globalBypass
  | globalCurrentChannel
deriving DecidableEq, Repr

/-- The 15 channel-scope rows of 30_encoding R141. -/
inductive ChField where
  | insType
  | insParam1
  | insParam2
  | insParam3
  | insParam4
  | insLevel
  | insBypass
  | reverbSend
  | chorusSend
  | variationSend
  | insertionSend
  | pan
  | volume
  | mute
  | solo
deriving DecidableEq, Repr

/-- A row of the descriptor table with its scope. -/
inductive ParamField where
  | sys (f : SysField)
  | ch (f : ChField)
deriving DecidableEq, Repr

/-- A field's value: a real, an index or a flag (10_state section 2). -/
inductive Value (K : Type := Rat) where
  | real (x : K)
  | index (n : Int)
  | flag (b : Bool)
deriving DecidableEq, Repr

section Transforms
variable {K : Type} [Zero K] [One K] [Add K] [Sub K] [Mul K] [Div K] [Neg K] [NatCast K] [IntCast K] [Max K] [Min K]
  [LT K] [DecidableLT K] [DecidableEq K]

def Value.toReal : Value K → K
  | .real x => x
  | .index n => n
  | .flag b => if b then 1 else 0

def Value.toIndex : Value K → Int
  | .real _ => 0
  | .index n => n
  | .flag b => if b then 1 else 0

def Value.toFlag : Value K → Bool
  | .real x => decide (x ≠ 0)
  | .index n => decide (n ≠ 0)
  | .flag b => b

/-! ## Transforms -/

/-- The four transforms of 30_encoding R140. -/
inductive Transform (K : Type := Rat) where
  | lin (lo hi : K)
  | idx (m : Nat)
  | bool
  | pan
deriving DecidableEq, Repr

/-- The decode transform of a 14-bit value (30_encoding R140). -/
def decodeValue : Transform K → Nat → Value K
  | .lin lo hi, v => .real (lo + (hi - lo) * v / 16383)
  | .idx m, v => .index (min m (v / 128) : Nat)
  | .bool, v => .flag (decide (v ≠ 0))
  | .pan, v => .real (v / 16383)

/-- The encode transform to a 14-bit value (30_encoding R142). -/
def encodeValue (n : Numerics K) : Transform K → Value K → Nat
  | .lin lo hi, x => (clampInt (roundHalfUp n ((x.toReal - lo) / (hi - lo) * 16383)) 0 16383).toNat
  | .idx _, x => (x.toIndex * 128).toNat
  | .bool, x => if x.toFlag then 16383 else 0
  | .pan, x => (clampInt (roundHalfUp n (x.toReal * 16383)) 0 16383).toNat

/-- `Legal_f` (40_protocol R196): the value SET stores for an operand value. -/
def legalValue : Transform K → Value K → Value K
  | .lin lo hi, x => .real (clampScalar x.toReal lo hi)
  | .idx m, x => .index (clampInt x.toIndex 0 m)
  | .bool, x => .flag x.toFlag
  | .pan, x => .real (clampScalar x.toReal 0 1)

/-- The physical pan `p = −1 + 2v/16383` that a PAN value stands for, which is 2x − 1 for the stored position x
(30_encoding R140). -/
def physicalPan (v : Nat) : K := -1 + 2 * v / 16383

/-! ## The table -/

/-- aL of a system row (30_encoding R141; aH is 0x00). -/
def sysAddress : SysField → Byte
  | .reverbTime => 0x00
  | .reverbPreDelay => 0x01
  | .reverbHfDamping => 0x02
  | .reverbDensity => 0x03
  | .reverbLevel => 0x04
  | .chorusRate => 0x08
  | .chorusDepth => 0x09
  | .chorusFeedback => 0x0A
  | .chorusCrossFeedback => 0x0B
  | .chorusBaseDelay => 0x0C
  | .chorusOutput => 0x0D
  | .chorusLevel => 0x0E
  | .variationType => 0x10
  | .variationParam1 => 0x11
  | .variationParam2 => 0x12
  | .variationParam3 => 0x13
  | .variationParam4 => 0x14
  | .variationLevel => 0x15
  | .variationBypass => 0x16
  | .eqLowGain => 0x20
  | .eqMidGain => 0x21
  | .eqHighGain => 0x22
  | .eqMidFreq => 0x23
  | .eqMidQ => 0x24
  | .routingEffectOrder => 0x30
  | .routingSendReverbToChorus => 0x31
  | .routingSendReverbToVariation => 0x32
  | .routingSendChorusToReverb => 0x33
  | .routingSendChorusToVariation => 0x34
  | .routingSendVariationToReverb => 0x35
  | .routingSendVariationToChorus => 0x36
  | .globalMasterLevel => 0x38
  | .globalBypass => 0x39
  | .globalCurrentChannel => 0x3A

/-- aL of a channel row (30_encoding R141; aH is 0x00). -/
def chAddress : ChField → Byte
  | .insType => 0x40
  | .insParam1 => 0x41
  | .insParam2 => 0x42
  | .insParam3 => 0x43
  | .insParam4 => 0x44
  | .insLevel => 0x45
  | .insBypass => 0x46
  | .reverbSend => 0x47
  | .chorusSend => 0x48
  | .variationSend => 0x49
  | .insertionSend => 0x4A
  | .pan => 0x4B
  | .volume => 0x4C
  | .mute => 0x4D
  | .solo => 0x4E

/-- The transform of a system row (30_encoding R141). -/
def sysTransform : SysField → Transform K
  | .reverbTime => .lin (1 / 10) (83 / 10)
  | .reverbPreDelay => .lin 0 (127 / 10000)
  | .reverbHfDamping => .lin 0 1
  | .reverbDensity => .lin 0 1
  | .reverbLevel => .lin 0 1
  | .chorusRate => .lin 0 10
  | .chorusDepth => .lin 0 1
  | .chorusFeedback => .lin 0 1
  | .chorusCrossFeedback => .lin 0 1
  | .chorusBaseDelay => .lin (1 / 1000) (3 / 100)
  | .chorusOutput => .lin 0 1
  | .chorusLevel => .lin 0 1
  | .variationType => .idx 127
  | .variationParam1 => .lin 0 1
  | .variationParam2 => .lin 0 1
  | .variationParam3 => .lin 0 1
  | .variationParam4 => .lin 0 1
  | .variationLevel => .lin 0 1
  | .variationBypass => .bool
  | .eqLowGain => .lin (-12) 12
  | .eqMidGain => .lin (-12) 12
  | .eqHighGain => .lin (-12) 12
  | .eqMidFreq => .lin 100 10000
  | .eqMidQ => .lin (1 / 2) 10
  | .routingEffectOrder => .idx 5
  | .routingSendReverbToChorus => .lin 0 1
  | .routingSendReverbToVariation => .lin 0 1
  | .routingSendChorusToReverb => .lin 0 1
  | .routingSendChorusToVariation => .lin 0 1
  | .routingSendVariationToReverb => .lin 0 1
  | .routingSendVariationToChorus => .lin 0 1
  | .globalMasterLevel => .lin 0 1
  | .globalBypass => .bool
  | .globalCurrentChannel => .idx 15

/-- The transform of a channel row (30_encoding R141). -/
def chTransform : ChField → Transform K
  | .insType => .idx 127
  | .insParam1 => .lin 0 1
  | .insParam2 => .lin 0 1
  | .insParam3 => .lin 0 1
  | .insParam4 => .lin 0 1
  | .insLevel => .lin 0 1
  | .insBypass => .bool
  | .reverbSend => .lin 0 1
  | .chorusSend => .lin 0 1
  | .variationSend => .lin 0 1
  | .insertionSend => .lin 0 1
  | .pan => .pan
  | .volume => .lin 0 1
  | .mute => .bool
  | .solo => .bool

/-- aL of a row. -/
def fieldAddress : ParamField → Byte
  | .sys f => sysAddress f
  | .ch f => chAddress f

/-- The transform of a row. -/
def fieldTransform : ParamField → Transform K
  | .sys f => sysTransform f
  | .ch f => chTransform f

/-- The system rows in ascending aL order. -/
def sysFields : List SysField :=
  [.reverbTime, .reverbPreDelay, .reverbHfDamping, .reverbDensity, .reverbLevel, .chorusRate, .chorusDepth,
   .chorusFeedback, .chorusCrossFeedback, .chorusBaseDelay, .chorusOutput, .chorusLevel, .variationType,
   .variationParam1, .variationParam2, .variationParam3, .variationParam4, .variationLevel, .variationBypass,
   .eqLowGain, .eqMidGain, .eqHighGain, .eqMidFreq, .eqMidQ, .routingEffectOrder, .routingSendReverbToChorus,
   .routingSendReverbToVariation, .routingSendChorusToReverb, .routingSendChorusToVariation,
   .routingSendVariationToReverb, .routingSendVariationToChorus, .globalMasterLevel, .globalBypass,
   .globalCurrentChannel]

/-- The channel rows in ascending aL order. -/
def chFields : List ChField :=
  [.insType, .insParam1, .insParam2, .insParam3, .insParam4, .insLevel, .insBypass, .reverbSend, .chorusSend,
   .variationSend, .insertionSend, .pan, .volume, .mute, .solo]

/-- The 49 rows of 30_encoding R141. -/
def allFields : List ParamField := sysFields.map .sys ++ chFields.map .ch

/-- `Desc(aH, aL)`: the row at an address, or none (40_protocol; only aH = 0x00 is populated, 20_memory R105). -/
def descriptor (aH aL : Byte) : Option ParamField :=
  if aH = 0 then allFields.find? (fun f => fieldAddress f == aL) else none

end Transforms

/-! ## Reading and writing a register -/

/-- `P.f` (00_scope R10). -/
def readSys {K : Type} (p : Params K) : SysField → Value K
  | .reverbTime => .real p.reverb.time
  | .reverbPreDelay => .real p.reverb.preDelay
  | .reverbHfDamping => .real p.reverb.hfDamping
  | .reverbDensity => .real p.reverb.density
  | .reverbLevel => .real p.reverb.level
  | .chorusRate => .real p.chorus.rate
  | .chorusDepth => .real p.chorus.depth
  | .chorusFeedback => .real p.chorus.feedback
  | .chorusCrossFeedback => .real p.chorus.crossFeedback
  | .chorusBaseDelay => .real p.chorus.baseDelay
  | .chorusOutput => .real p.chorus.output
  | .chorusLevel => .real p.chorus.level
  | .variationType => .index p.variation.typeId
  | .variationParam1 => .real p.variation.param1
  | .variationParam2 => .real p.variation.param2
  | .variationParam3 => .real p.variation.param3
  | .variationParam4 => .real p.variation.param4
  | .variationLevel => .real p.variation.level
  | .variationBypass => .flag p.variation.bypass
  | .eqLowGain => .real p.eq.lowGain
  | .eqMidGain => .real p.eq.midGain
  | .eqHighGain => .real p.eq.highGain
  | .eqMidFreq => .real p.eq.midFreq
  | .eqMidQ => .real p.eq.midQ
  | .routingEffectOrder => .index p.routing.effectOrder
  | .routingSendReverbToChorus => .real p.routing.sendReverbToChorus
  | .routingSendReverbToVariation => .real p.routing.sendReverbToVariation
  | .routingSendChorusToReverb => .real p.routing.sendChorusToReverb
  | .routingSendChorusToVariation => .real p.routing.sendChorusToVariation
  | .routingSendVariationToReverb => .real p.routing.sendVariationToReverb
  | .routingSendVariationToChorus => .real p.routing.sendVariationToChorus
  | .globalMasterLevel => .real p.global.masterLevel
  | .globalBypass => .flag p.global.bypass
  | .globalCurrentChannel => .index p.global.currentChannel

/-- `CH[c].f` (00_scope R10). -/
def readCh {K : Type} (c : Channel K) : ChField → Value K
  | .insType => .index c.insType
  | .insParam1 => .real c.insParam1
  | .insParam2 => .real c.insParam2
  | .insParam3 => .real c.insParam3
  | .insParam4 => .real c.insParam4
  | .insLevel => .real c.insLevel
  | .insBypass => .flag c.insBypass
  | .reverbSend => .real c.reverbSend
  | .chorusSend => .real c.chorusSend
  | .variationSend => .real c.variationSend
  | .insertionSend => .real c.insertionSend
  | .pan => .real c.pan
  | .volume => .real c.volume
  | .mute => .flag c.mute
  | .solo => .flag c.solo

section Registers
variable {K : Type} [Zero K] [One K] [Add K] [Sub K] [Mul K] [Div K] [Neg K] [NatCast K] [IntCast K] [Max K] [Min K]
  [LT K] [DecidableLT K] [DecidableEq K]

/-- `P.f <- v`: "the stored value replaces the old one; nothing else changes" (40_protocol R183). -/
def writeSys (p : Params K) (f : SysField) (v : Value K) : Params K :=
  match f with
  | .reverbTime => { p with reverb.time := v.toReal }
  | .reverbPreDelay => { p with reverb.preDelay := v.toReal }
  | .reverbHfDamping => { p with reverb.hfDamping := v.toReal }
  | .reverbDensity => { p with reverb.density := v.toReal }
  | .reverbLevel => { p with reverb.level := v.toReal }
  | .chorusRate => { p with chorus.rate := v.toReal }
  | .chorusDepth => { p with chorus.depth := v.toReal }
  | .chorusFeedback => { p with chorus.feedback := v.toReal }
  | .chorusCrossFeedback => { p with chorus.crossFeedback := v.toReal }
  | .chorusBaseDelay => { p with chorus.baseDelay := v.toReal }
  | .chorusOutput => { p with chorus.output := v.toReal }
  | .chorusLevel => { p with chorus.level := v.toReal }
  | .variationType => { p with variation.typeId := v.toIndex }
  | .variationParam1 => { p with variation.param1 := v.toReal }
  | .variationParam2 => { p with variation.param2 := v.toReal }
  | .variationParam3 => { p with variation.param3 := v.toReal }
  | .variationParam4 => { p with variation.param4 := v.toReal }
  | .variationLevel => { p with variation.level := v.toReal }
  | .variationBypass => { p with variation.bypass := v.toFlag }
  | .eqLowGain => { p with eq.lowGain := v.toReal }
  | .eqMidGain => { p with eq.midGain := v.toReal }
  | .eqHighGain => { p with eq.highGain := v.toReal }
  | .eqMidFreq => { p with eq.midFreq := v.toReal }
  | .eqMidQ => { p with eq.midQ := v.toReal }
  | .routingEffectOrder => { p with routing.effectOrder := v.toIndex }
  | .routingSendReverbToChorus => { p with routing.sendReverbToChorus := v.toReal }
  | .routingSendReverbToVariation => { p with routing.sendReverbToVariation := v.toReal }
  | .routingSendChorusToReverb => { p with routing.sendChorusToReverb := v.toReal }
  | .routingSendChorusToVariation => { p with routing.sendChorusToVariation := v.toReal }
  | .routingSendVariationToReverb => { p with routing.sendVariationToReverb := v.toReal }
  | .routingSendVariationToChorus => { p with routing.sendVariationToChorus := v.toReal }
  | .globalMasterLevel => { p with global.masterLevel := v.toReal }
  | .globalBypass => { p with global.bypass := v.toFlag }
  | .globalCurrentChannel => { p with global.currentChannel := v.toIndex }

/-- `CH[c].f <- v` (40_protocol R183). -/
def writeCh (c : Channel K) (f : ChField) (v : Value K) : Channel K :=
  match f with
  | .insType => { c with insType := v.toIndex }
  | .insParam1 => { c with insParam1 := v.toReal }
  | .insParam2 => { c with insParam2 := v.toReal }
  | .insParam3 => { c with insParam3 := v.toReal }
  | .insParam4 => { c with insParam4 := v.toReal }
  | .insLevel => { c with insLevel := v.toReal }
  | .insBypass => { c with insBypass := v.toFlag }
  | .reverbSend => { c with reverbSend := v.toReal }
  | .chorusSend => { c with chorusSend := v.toReal }
  | .variationSend => { c with variationSend := v.toReal }
  | .insertionSend => { c with insertionSend := v.toReal }
  | .pan => { c with pan := v.toReal }
  | .volume => { c with volume := v.toReal }
  | .mute => { c with mute := v.toFlag }
  | .solo => { c with solo := v.toFlag }

/-- Every system field at its legal value (40_protocol R196, first loop). -/
def legalParams (p : Params K) : Params K :=
  sysFields.foldl (fun q f => writeSys q f (legalValue (sysTransform f) (readSys p f))) p

/-- Every field of one bank at its legal value (40_protocol R196, second loop). -/
def legalChannel (c : Channel K) : Channel K :=
  chFields.foldl (fun q f => writeCh q f (legalValue (chTransform f) (readCh c f))) c

/-! ## Reset values (10_state R21 to R69, section 5) -/

/-- The reset values of P. -/
def resetParams : Params K where
  reverb :=
    { time := 5 / 2, preDelay := 0, hfDamping := 1 / 2, density := 1 / 2, level := 1 / 2 }
  chorus :=
    { rate := 1, depth := 1 / 2, feedback := 0, crossFeedback := 0, baseDelay := 1 / 100, output := 1 / 2, level := 1 / 2 }
  variation :=
    { typeId := 0, param1 := 1 / 2, param2 := 1 / 2, param3 := 1 / 2,
      param4 := 1 / 2, level := 1, bypass := true }
  eq :=
    { lowGain := 0, midGain := 0, highGain := 0, midFreq := 1000, midQ := 1 }
  routing :=
    { effectOrder := 0, sendReverbToChorus := 0, sendReverbToVariation := 0, sendChorusToReverb := 0,
      sendChorusToVariation := 0, sendVariationToReverb := 0, sendVariationToChorus := 0 }
  global :=
    { masterLevel := 4 / 5, bypass := false, currentChannel := 0 }

/-- The reset values of one channel bank. -/
def resetChannel : Channel K where
  insType := 0
  insParam1 := 1 / 2
  insParam2 := 1 / 2
  insParam3 := 1 / 2
  insParam4 := 1 / 2
  insLevel := 1
  insBypass := true
  reverbSend := 1 / 4
  chorusSend := 0
  variationSend := 0
  insertionSend := 0
  pan := 1 / 2
  volume := 1
  mute := false
  solo := false

/-- The reset values of P and CH (40_protocol R197). -/
def resetSnapshot : Snapshot K := ⟨resetParams, Vector.replicate 16 resetChannel⟩

end Registers

end Sys2Proof.Machine
end

