-- ==== Sys2Proof/WellFormed.lean ====
section
/-! DEFINITION. Which instructions the encoding admits: the lengths a record's count bytes can carry (30_encoding R133,
R135), and that a record with an instruction of its own is not written as the general `pu` or `sx`
(notes/assumptions/12.md). -/

namespace Sys2Proof

variable {K : Type}

/-- The body layouts that have an instruction of their own: a parameter change (30_encoding R144) and the two bulk dumps
(R145, R146), all under the one vendor byte (R143). -/
def isNamedSysEx (cfg : Config K) (vendor body : List Byte) : Bool :=
  vendor == [cfg.vendorId] &&
  match body with
  | _ :: sub :: rest =>
    (sub == cfg.pcSubstatus && decide (3 ≤ rest.length)) ||
    (sub != cfg.pcSubstatus && sub == 0x00 && match rest with
      | kind :: _ => kind == 0x03 || kind == 0x04
      | [] => false)
  | _ => false

/-- What the encoding of a block with the given parameters admits of an instruction. A block whose PC_SUBSTATUS is 0x00 reads
no bulk dump: the sub-status of a parameter change is looked at first (40_protocol R186). -/
def Instr.wellFormedFor (cfg : Config K) : Instr K → Bool
  | .pu _ aH aL _ _ => (Machine.descriptor aH aL).isNone
  | .sx vendor body =>
    decide (vendor.length < 256) && decide (body.length < 65536) && !isNamedSysEx cfg vendor body
  | .sxParamChange _ _ _ _ tail => decide (tail.length + 5 < 65536)
  | .sxBulkSystem _ records => cfg.pcSubstatus != 0x00 && decide (records.length + 3 < 65536)
  | .sxBulkChannel _ records => cfg.pcSubstatus != 0x00 && decide (records.length + 3 < 65536)
  | .encSys => true
  | .encChan => true
  | .proc frames levels => decide (frames.length < 256) && decide (levels.length < 256)
  | .get => true
  | .set _ => true
  | .rst => true
  | .puReverbTime _ _ _ => true
  | .puReverbPreDelay _ _ _ => true
  | .puReverbHfDamping _ _ _ => true
  | .puReverbDensity _ _ _ => true
  | .puReverbLevel _ _ _ => true
  | .puChorusRate _ _ _ => true
  | .puChorusDepth _ _ _ => true
  | .puChorusFeedback _ _ _ => true
  | .puChorusCrossFeedback _ _ _ => true
  | .puChorusBaseDelay _ _ _ => true
  | .puChorusOutput _ _ _ => true
  | .puChorusLevel _ _ _ => true
  | .puVariationType _ _ _ => true
  | .puVariationParam1 _ _ _ => true
  | .puVariationParam2 _ _ _ => true
  | .puVariationParam3 _ _ _ => true
  | .puVariationParam4 _ _ _ => true
  | .puVariationLevel _ _ _ => true
  | .puVariationBypass _ _ _ => true
  | .puEqLowGain _ _ _ => true
  | .puEqMidGain _ _ _ => true
  | .puEqHighGain _ _ _ => true
  | .puEqMidFreq _ _ _ => true
  | .puEqMidQ _ _ _ => true
  | .puRoutingEffectOrder _ _ _ => true
  | .puRoutingSendReverbToChorus _ _ _ => true
  | .puRoutingSendReverbToVariation _ _ _ => true
  | .puRoutingSendChorusToReverb _ _ _ => true
  | .puRoutingSendChorusToVariation _ _ _ => true
  | .puRoutingSendVariationToReverb _ _ _ => true
  | .puRoutingSendVariationToChorus _ _ _ => true
  | .puGlobalMasterLevel _ _ _ => true
  | .puGlobalBypass _ _ _ => true
  | .puGlobalCurrentChannel _ _ _ => true
  | .puChInsType _ _ _ => true
  | .puChInsParam1 _ _ _ => true
  | .puChInsParam2 _ _ _ => true
  | .puChInsParam3 _ _ _ => true
  | .puChInsParam4 _ _ _ => true
  | .puChInsLevel _ _ _ => true
  | .puChInsBypass _ _ _ => true
  | .puChReverbSend _ _ _ => true
  | .puChChorusSend _ _ _ => true
  | .puChVariationSend _ _ _ => true
  | .puChInsertionSend _ _ _ => true
  | .puChPan _ _ _ => true
  | .puChVolume _ _ _ => true
  | .puChMute _ _ _ => true
  | .puChSolo _ _ _ => true

/-- What the encoding of the machine admits of an instruction. -/
def Instr.wellFormed (i : Instr) : Bool := i.wellFormedFor Config.machine

end Sys2Proof
end

