-- ==== Sys2Proof/Decode.lean ====
section
/-! DEFINITION. The decoder of the command port (30_encoding R130 to R138), total on any items; the encoder written from
the same formats; and the words of spec/opcode_table.json. -/

namespace Sys2Proof

variable {K : Type}

/-! ## Taking a record apart -/

/-- What taking part of a record from the port gives. -/
inductive Taken (K α : Type) where
  /-- The part, and the items after it. -/
  | got (a : α) (rest : List (PortItem K))
  /-- The port ends before the part does. -/
  | short
  /-- An item of another kind stands where the format asks for a byte, a real or a snapshot. -/
  | wrong
deriving Repr

/-- Go on with what was taken. -/
def thenTake {α β : Type} (t : Taken K α) (k : α → List (PortItem K) → Taken K β) : Taken K β :=
  match t with
  | .got a rest => k a rest
  | .short => .short
  | .wrong => .wrong

def takeByte : List (PortItem K) → Taken K Byte
  | .byte b :: rest => .got b rest
  | [] => .short
  | _ :: _ => .wrong

def takeBytes : Nat → List (PortItem K) → Taken K (List Byte)
  | 0, items => .got [] items
  | n + 1, .byte b :: rest => thenTake (takeBytes n rest) fun bs rest' => .got (b :: bs) rest'
  | _ + 1, [] => .short
  | _ + 1, _ :: _ => .wrong

def takeReals : Nat → List (PortItem K) → Taken K (List K)
  | 0, items => .got [] items
  | n + 1, .real x :: rest => thenTake (takeReals n rest) fun xs rest' => .got (x :: xs) rest'
  | _ + 1, [] => .short
  | _ + 1, _ :: _ => .wrong

/-- nF frames, each two reals, left then right (30_encoding R135). -/
def takeFrames : Nat → List (PortItem K) → Taken K (List (Stereo K))
  | 0, items => .got [] items
  | n + 1, .real l :: .real r :: rest => thenTake (takeFrames n rest) fun fs rest' => .got (⟨l, r⟩ :: fs) rest'
  | _ + 1, [] => .short
  | _ + 1, [.real _] => .short
  | _ + 1, _ :: _ => .wrong

def takeSnapshot : List (PortItem K) → Taken K (Snapshot K)
  | .snapshot s :: rest => .got s rest
  | [] => .short
  | _ :: _ => .wrong

/-! ## Choosing the instruction -/

/-- The instruction that writes a field of the descriptor table: its PU.<FIELD> row. -/
def paramInstr (f : Machine.ParamField) (ch vH vL : Byte) : Instr K :=
  match f with
  | .sys .reverbTime => .puReverbTime ch vH vL
  | .sys .reverbPreDelay => .puReverbPreDelay ch vH vL
  | .sys .reverbHfDamping => .puReverbHfDamping ch vH vL
  | .sys .reverbDensity => .puReverbDensity ch vH vL
  | .sys .reverbLevel => .puReverbLevel ch vH vL
  | .sys .chorusRate => .puChorusRate ch vH vL
  | .sys .chorusDepth => .puChorusDepth ch vH vL
  | .sys .chorusFeedback => .puChorusFeedback ch vH vL
  | .sys .chorusCrossFeedback => .puChorusCrossFeedback ch vH vL
  | .sys .chorusBaseDelay => .puChorusBaseDelay ch vH vL
  | .sys .chorusOutput => .puChorusOutput ch vH vL
  | .sys .chorusLevel => .puChorusLevel ch vH vL
  | .sys .variationType => .puVariationType ch vH vL
  | .sys .variationParam1 => .puVariationParam1 ch vH vL
  | .sys .variationParam2 => .puVariationParam2 ch vH vL
  | .sys .variationParam3 => .puVariationParam3 ch vH vL
  | .sys .variationParam4 => .puVariationParam4 ch vH vL
  | .sys .variationLevel => .puVariationLevel ch vH vL
  | .sys .variationBypass => .puVariationBypass ch vH vL
  | .sys .eqLowGain => .puEqLowGain ch vH vL
  | .sys .eqMidGain => .puEqMidGain ch vH vL
  | .sys .eqHighGain => .puEqHighGain ch vH vL
  | .sys .eqMidFreq => .puEqMidFreq ch vH vL
  | .sys .eqMidQ => .puEqMidQ ch vH vL
  | .sys .routingEffectOrder => .puRoutingEffectOrder ch vH vL
  | .sys .routingSendReverbToChorus => .puRoutingSendReverbToChorus ch vH vL
  | .sys .routingSendReverbToVariation => .puRoutingSendReverbToVariation ch vH vL
  | .sys .routingSendChorusToReverb => .puRoutingSendChorusToReverb ch vH vL
  | .sys .routingSendChorusToVariation => .puRoutingSendChorusToVariation ch vH vL
  | .sys .routingSendVariationToReverb => .puRoutingSendVariationToReverb ch vH vL
  | .sys .routingSendVariationToChorus => .puRoutingSendVariationToChorus ch vH vL
  | .sys .globalMasterLevel => .puGlobalMasterLevel ch vH vL
  | .sys .globalBypass => .puGlobalBypass ch vH vL
  | .sys .globalCurrentChannel => .puGlobalCurrentChannel ch vH vL
  | .ch .insType => .puChInsType ch vH vL
  | .ch .insParam1 => .puChInsParam1 ch vH vL
  | .ch .insParam2 => .puChInsParam2 ch vH vL
  | .ch .insParam3 => .puChInsParam3 ch vH vL
  | .ch .insParam4 => .puChInsParam4 ch vH vL
  | .ch .insLevel => .puChInsLevel ch vH vL
  | .ch .insBypass => .puChInsBypass ch vH vL
  | .ch .reverbSend => .puChReverbSend ch vH vL
  | .ch .chorusSend => .puChChorusSend ch vH vL
  | .ch .variationSend => .puChVariationSend ch vH vL
  | .ch .insertionSend => .puChInsertionSend ch vH vL
  | .ch .pan => .puChPan ch vH vL
  | .ch .volume => .puChVolume ch vH vL
  | .ch .mute => .puChMute ch vH vL
  | .ch .solo => .puChSolo ch vH vL

/-- A PU record: the row of its address, or `pu` where the address names nothing (30_encoding R132, R141). -/
def puInstr (ch aH aL vH vL : Byte) : Instr K :=
  match Machine.descriptor aH aL with
  | some f => paramInstr f ch vH vL
  | none => .pu ch aH aL vH vL

/-- An SX record: the row of its layout, or `sx` (30_encoding R143 to R146, R148). -/
def sxInstrFor (cfg : Config K) (vendor body : List Byte) : Instr K :=
  if vendor = [cfg.vendorId] then
    match body with
    | dev :: sub :: rest =>
      if sub = cfg.pcSubstatus then
        match rest with
        | aH :: aL :: value :: tail => .sxParamChange dev aH aL value tail
        | _ => .sx vendor body
      else if sub = 0x00 then
        match rest with
        | kind :: records =>
          if kind = 0x03 then .sxBulkSystem dev records
          else if kind = 0x04 then .sxBulkChannel dev records
          else .sx vendor body
        | [] => .sx vendor body
      else .sx vendor body
    | _ => .sx vendor body
  else .sx vendor body

/-- An SX record of the machine. -/
def sxInstr (vendor body : List Byte) : Instr := sxInstrFor Config.machine vendor body

/-! ## The formats

Each format takes what follows the opcode byte and gives the instruction, or none where the record is refused. -/

/-- CMD-PU, 6 bytes (30_encoding R132). -/
def takePu (items : List (PortItem K)) : Taken K (Option (Instr K)) :=
  thenTake (takeByte items) fun ch r1 =>
  thenTake (takeByte r1) fun aH r2 =>
  thenTake (takeByte r2) fun aL r3 =>
  thenTake (takeByte r3) fun vH r4 =>
  thenTake (takeByte r4) fun vL r5 =>
  .got (some (puInstr ch aH aL vH vL)) r5

/-- CMD-SX, 4 + nV + nB bytes (30_encoding R133). -/
def takeSx (cfg : Config K) (items : List (PortItem K)) : Taken K (Option (Instr K)) :=
  thenTake (takeByte items) fun nV r1 =>
  thenTake (takeByte r1) fun nBHigh r2 =>
  thenTake (takeByte r2) fun nBLow r3 =>
  thenTake (takeBytes nV.toNat r3) fun vendor r4 =>
  thenTake (takeBytes (nBHigh.toNat * 256 + nBLow.toNat) r4) fun body r5 =>
  .got (some (sxInstrFor cfg vendor body)) r5

/-- CMD-ENC, 2 bytes; a scope byte other than 0x00 and 0x01 is refused (30_encoding R134). -/
def takeEnc (items : List (PortItem K)) : Taken K (Option (Instr K)) :=
  thenTake (takeByte items) fun scope r1 =>
  if scope = 0x00 then .got (some .encSys) r1
  else if scope = 0x01 then .got (some .encChan) r1
  else .got none r1

/-- CMD-PROC: nF, nLv, nF frames, nLv reals (30_encoding R135). -/
def takeProc (items : List (PortItem K)) : Taken K (Option (Instr K)) :=
  thenTake (takeByte items) fun nF r1 =>
  thenTake (takeByte r1) fun nLv r2 =>
  thenTake (takeFrames nF.toNat r2) fun frames r3 =>
  thenTake (takeReals nLv.toNat r3) fun levels r4 =>
  .got (some (.proc frames levels)) r4

/-- CMD-SET: one snapshot (30_encoding R136). -/
def takeSet (items : List (PortItem K)) : Taken K (Option (Instr K)) :=
  thenTake (takeSnapshot items) fun snap r1 => .got (some (.set snap)) r1

/-- The opcode byte selects the format (30_encoding R131); a reserved opcode is a refused record of 1 byte (R138). -/
def takeRecord (cfg : Config K) (opcode : Byte) (items : List (PortItem K)) : Taken K (Option (Instr K)) :=
  if opcode = 0x01 then takePu items
  else if opcode = 0x02 then takeSx cfg items
  else if opcode = 0x03 then takeEnc items
  else if opcode = 0x04 then takeProc items
  else if opcode = 0x05 then .got (some .get) items
  else if opcode = 0x06 then takeSet items
  else if opcode = 0x07 then .got (some .rst) items
  else .got none items

/-! ## The decoder -/

/-- What the decoder says of the items at the head of the port. -/
inductive Decoded (K : Type := Rat) where
  /-- One whole record: its instruction, and the items after it. -/
  | instr (i : Instr K) (rest : List (PortItem K))
  /-- A whole record that the engine refuses: a reserved opcode, or a reserved ENC scope (30_encoding R151). -/
  | refused (rest : List (PortItem K))
  /-- No whole record yet. -/
  | incomplete
  /-- The items are no record of any format. -/
  | wrongItem
deriving DecidableEq, Repr

/-- Decode the record at the head of the port of a block with the given parameters (30_encoding R138). -/
def decodeFor (cfg : Config K) (items : List (PortItem K)) : Decoded K :=
  match thenTake (takeByte items) (takeRecord cfg) with
  | .got (some i) rest => .instr i rest
  | .got none rest => .refused rest
  | .short => .incomplete
  | .wrong => .wrongItem

/-- Decode the record at the head of the machine's port. -/
def decode (items : List PortItem) : Decoded := decodeFor Config.machine items

/-! ## The encoder -/

/-- Bytes as items of the port. -/
def byteItems (bs : List Byte) : List (PortItem K) := bs.map .byte

/-- A frame as two items, left then right (30_encoding R135). -/
def frameItems : List (Stereo K) → List (PortItem K)
  | [] => []
  | x :: xs => .real x.l :: .real x.r :: frameItems xs

/-- The record of a PU (30_encoding R132). -/
def encodePu (ch aH aL vH vL : Byte) : List (PortItem K) := byteItems [0x01, ch, aH, aL, vH, vL]

/-- The record of a PU that writes a field of the table: aH is 0x00 (30_encoding R141). -/
def encodeParam (f : Machine.ParamField) (ch vH vL : Byte) : List (PortItem K) :=
  encodePu ch 0x00 (Machine.fieldAddress f) vH vL

/-- The record of an SX (30_encoding R133). -/
def encodeSx (vendor body : List Byte) : List (PortItem K) :=
  byteItems ([0x02, BitVec.ofNat 8 vendor.length, BitVec.ofNat 8 (body.length / 256), BitVec.ofNat 8 (body.length % 256)]
    ++ vendor ++ body)

/-- The record of an instruction for a block with the given parameters (30_encoding R132 to R136, R144 to R146). -/
def encodeFor (cfg : Config K) : Instr K → List (PortItem K)
  | .pu ch aH aL vH vL => encodePu ch aH aL vH vL
  | .sx vendor body => encodeSx vendor body
  | .sxParamChange dev aH aL value tail =>
    encodeSx [cfg.vendorId] ([dev, cfg.pcSubstatus, aH, aL, value] ++ tail)
  | .sxBulkSystem dev records => encodeSx [cfg.vendorId] ([dev, 0x00, 0x03] ++ records)
  | .sxBulkChannel dev records => encodeSx [cfg.vendorId] ([dev, 0x00, 0x04] ++ records)
  | .encSys => byteItems [0x03, 0x00]
  | .encChan => byteItems [0x03, 0x01]
  | .proc frames levels =>
    byteItems [0x04, BitVec.ofNat 8 frames.length, BitVec.ofNat 8 levels.length]
      ++ frameItems frames ++ levels.map .real
  | .get => byteItems [0x05]
  | .set snap => byteItems [0x06] ++ [.snapshot snap]
  | .rst => byteItems [0x07]
  | .puReverbTime ch vH vL => encodeParam (.sys .reverbTime) ch vH vL
  | .puReverbPreDelay ch vH vL => encodeParam (.sys .reverbPreDelay) ch vH vL
  | .puReverbHfDamping ch vH vL => encodeParam (.sys .reverbHfDamping) ch vH vL
  | .puReverbDensity ch vH vL => encodeParam (.sys .reverbDensity) ch vH vL
  | .puReverbLevel ch vH vL => encodeParam (.sys .reverbLevel) ch vH vL
  | .puChorusRate ch vH vL => encodeParam (.sys .chorusRate) ch vH vL
  | .puChorusDepth ch vH vL => encodeParam (.sys .chorusDepth) ch vH vL
  | .puChorusFeedback ch vH vL => encodeParam (.sys .chorusFeedback) ch vH vL
  | .puChorusCrossFeedback ch vH vL => encodeParam (.sys .chorusCrossFeedback) ch vH vL
  | .puChorusBaseDelay ch vH vL => encodeParam (.sys .chorusBaseDelay) ch vH vL
  | .puChorusOutput ch vH vL => encodeParam (.sys .chorusOutput) ch vH vL
  | .puChorusLevel ch vH vL => encodeParam (.sys .chorusLevel) ch vH vL
  | .puVariationType ch vH vL => encodeParam (.sys .variationType) ch vH vL
  | .puVariationParam1 ch vH vL => encodeParam (.sys .variationParam1) ch vH vL
  | .puVariationParam2 ch vH vL => encodeParam (.sys .variationParam2) ch vH vL
  | .puVariationParam3 ch vH vL => encodeParam (.sys .variationParam3) ch vH vL
  | .puVariationParam4 ch vH vL => encodeParam (.sys .variationParam4) ch vH vL
  | .puVariationLevel ch vH vL => encodeParam (.sys .variationLevel) ch vH vL
  | .puVariationBypass ch vH vL => encodeParam (.sys .variationBypass) ch vH vL
  | .puEqLowGain ch vH vL => encodeParam (.sys .eqLowGain) ch vH vL
  | .puEqMidGain ch vH vL => encodeParam (.sys .eqMidGain) ch vH vL
  | .puEqHighGain ch vH vL => encodeParam (.sys .eqHighGain) ch vH vL
  | .puEqMidFreq ch vH vL => encodeParam (.sys .eqMidFreq) ch vH vL
  | .puEqMidQ ch vH vL => encodeParam (.sys .eqMidQ) ch vH vL
  | .puRoutingEffectOrder ch vH vL => encodeParam (.sys .routingEffectOrder) ch vH vL
  | .puRoutingSendReverbToChorus ch vH vL => encodeParam (.sys .routingSendReverbToChorus) ch vH vL
  | .puRoutingSendReverbToVariation ch vH vL => encodeParam (.sys .routingSendReverbToVariation) ch vH vL
  | .puRoutingSendChorusToReverb ch vH vL => encodeParam (.sys .routingSendChorusToReverb) ch vH vL
  | .puRoutingSendChorusToVariation ch vH vL => encodeParam (.sys .routingSendChorusToVariation) ch vH vL
  | .puRoutingSendVariationToReverb ch vH vL => encodeParam (.sys .routingSendVariationToReverb) ch vH vL
  | .puRoutingSendVariationToChorus ch vH vL => encodeParam (.sys .routingSendVariationToChorus) ch vH vL
  | .puGlobalMasterLevel ch vH vL => encodeParam (.sys .globalMasterLevel) ch vH vL
  | .puGlobalBypass ch vH vL => encodeParam (.sys .globalBypass) ch vH vL
  | .puGlobalCurrentChannel ch vH vL => encodeParam (.sys .globalCurrentChannel) ch vH vL
  | .puChInsType ch vH vL => encodeParam (.ch .insType) ch vH vL
  | .puChInsParam1 ch vH vL => encodeParam (.ch .insParam1) ch vH vL
  | .puChInsParam2 ch vH vL => encodeParam (.ch .insParam2) ch vH vL
  | .puChInsParam3 ch vH vL => encodeParam (.ch .insParam3) ch vH vL
  | .puChInsParam4 ch vH vL => encodeParam (.ch .insParam4) ch vH vL
  | .puChInsLevel ch vH vL => encodeParam (.ch .insLevel) ch vH vL
  | .puChInsBypass ch vH vL => encodeParam (.ch .insBypass) ch vH vL
  | .puChReverbSend ch vH vL => encodeParam (.ch .reverbSend) ch vH vL
  | .puChChorusSend ch vH vL => encodeParam (.ch .chorusSend) ch vH vL
  | .puChVariationSend ch vH vL => encodeParam (.ch .variationSend) ch vH vL
  | .puChInsertionSend ch vH vL => encodeParam (.ch .insertionSend) ch vH vL
  | .puChPan ch vH vL => encodeParam (.ch .pan) ch vH vL
  | .puChVolume ch vH vL => encodeParam (.ch .volume) ch vH vL
  | .puChMute ch vH vL => encodeParam (.ch .mute) ch vH vL
  | .puChSolo ch vH vL => encodeParam (.ch .solo) ch vH vL

/-- The record of an instruction for the machine. -/
def encode (i : Instr) : List PortItem := encodeFor Config.machine i

/-! ## The words of spec/opcode_table.json -/

/-- The snapshot whose every real and index is 0 and every flag false: the operand of a SET row whose operand bits are 0. -/
def zeroSnapshot : Snapshot where
  p :=
    { reverb := ⟨0, 0, 0, 0, 0⟩, chorus := ⟨0, 0, 0, 0, 0, 0, 0⟩, variation := ⟨0, 0, 0, 0, 0, 0, false⟩,
      eq := ⟨0, 0, 0, 0, 0⟩, routing := ⟨0, 0, 0, 0, 0, 0, 0⟩, global := ⟨0, false, 0⟩ }
  ch := Vector.replicate 16 ⟨0, 0, 0, 0, 0, 0, false, 0, 0, 0, 0, 0, 0, false, false⟩

/-- The first bytes of the record a table word stands for (notes/assumptions/11.md). One byte: the opcode. Two bytes: the
table spells them first byte first, so `0x03ss` is ENC with scope ss; every other two-byte word is a PARAM_ADDR key
aH·128 + aL, written by PU. Longer: bits 7..0 are the first byte. -/
def tableBytes (nbits w : Nat) : List Byte :=
  if nbits ≤ 8 then [BitVec.ofNat 8 w]
  else if nbits ≤ 16 then
    if w / 256 = 3 then [0x03, BitVec.ofNat 8 w]
    else [0x01, 0x00, BitVec.ofNat 8 (w / 128 % 128), BitVec.ofNat 8 (w % 128)]
  else (List.range (nbits / 8)).map (fun i => BitVec.ofNat 8 (w / 256 ^ i))

/-- Bytes followed by zeros up to length n. -/
def padBytes (n : Nat) (bs : List Byte) : List Byte := bs ++ List.replicate (n - bs.length) 0x00

/-- A record that begins with the given bytes and whose every further byte, real and snapshot field is 0, as long as its
opcode and count bytes say (30_encoding R138). -/
def zeroRecord (bs : List Byte) : List PortItem :=
  match bs with
  | [] => []
  | opcode :: _ =>
    if opcode = 0x01 then byteItems (padBytes 6 bs)
    else if opcode = 0x02 then
      match padBytes 4 bs with
      | _ :: nV :: nBHigh :: nBLow :: _ => byteItems (padBytes (4 + nV.toNat + nBHigh.toNat * 256 + nBLow.toNat) bs)
      | _ => []
    else if opcode = 0x03 then byteItems (padBytes 2 bs)
    else if opcode = 0x04 then
      match padBytes 3 bs with
      | _ :: nF :: nLv :: _ =>
        byteItems ((padBytes 3 bs).take 3) ++ List.replicate (2 * nF.toNat + nLv.toNat) (.real 0)
      | _ => []
    else if opcode = 0x06 then [.byte 0x06, .snapshot zeroSnapshot]
    else byteItems bs

/-- The items a table word stands for on the port. -/
def tableItems (nbits w : Nat) : List PortItem := zeroRecord (tableBytes nbits w)

/-- The instruction the decoder reads from a word of the table; none where it refuses. -/
def decodeTableWord (nbits w : Nat) : Option Instr :=
  match decode (tableItems nbits w) with
  | .instr i _ => some i
  | .refused _ => none
  | .incomplete => none
  | .wrongItem => none

end Sys2Proof
end

