-- ==== Sys2Proof/Machine/State.lean ====
section
/-! DEFINITION. The machine's state as plain data (10_state R20): the parameter file P, the channel banks CH, the runtime
state S, the command port and the result of the last command; and the state after reset. -/

namespace Sys2Proof.Machine

/-! ## Runtime state -/

/-- A ring memory (20_memory R100): its elements by index, in one canonical form: indices strictly rising, no element equal
to 0, which is what an unlisted index holds (the reset value, 10_state R74). Its capacity is its owner's parameter of
00_scope R7 (20_memory R102). notes/assumptions/14.md. -/
abbrev RingMemory (K : Type := Rat) := List (Nat × K)

/-- A delay line with one ring and its pointer: the predelay, a comb or an allpass (10_state R74). -/
structure Line (K : Type := Rat) where
  buf : RingMemory K
  w : Nat
deriving DecidableEq, Repr, Inhabited

/-- S.rv (10_state R74). -/
structure ReverbState (K : Type := Rat) where
  /-- `S.rv.pd` and `S.rv.pd_w`. -/
  pd : Line K
  /-- `S.rv.comb[k]` and `S.rv.comb_w[k]`. -/
  comb : Vector (Line K) 8
  /-- `S.rv.ap[j]` and `S.rv.ap_i[j]`. -/
  ap : Vector (Line K) 4
deriving DecidableEq, Repr

/-- S.ch (10_state R75). -/
structure ChorusState (K : Type := Rat) where
  bufL : RingMemory K
  bufR : RingMemory K
  w : Nat
  phL : Angle K
  phR : Angle K
deriving DecidableEq, Repr

/-- The state (x1, x2, y1, y2) of one biquad (10_state R76). -/
structure BiquadState (K : Type := Rat) where
  x1 : K
  x2 : K
  y1 : K
  y2 : K
deriving DecidableEq, Repr

/-- The three bands of one side of the equalizer (10_state R76). -/
structure EqSide (K : Type := Rat) where
  low : BiquadState K
  mid : BiquadState K
  high : BiquadState K
deriving DecidableEq, Repr

/-- S.eq (10_state R76). -/
structure EqState (K : Type := Rat) where
  left : EqSide K
  right : EqSide K
deriving DecidableEq, Repr

/-- A flanger record (10_state R78). -/
structure FlangerState (K : Type := Rat) where
  bufL : RingMemory K
  bufR : RingMemory K
  w : Nat
  ph : Angle K
deriving DecidableEq, Repr

/-- A compressor record (10_state R79). -/
structure CompressorState (K : Type := Rat) where
  env : K
deriving DecidableEq, Repr

/-- A gate record (10_state R80). -/
structure GateState (K : Type := Rat) where
  g : K
  h : Nat
deriving DecidableEq, Repr

/-- A processor slot: one state record per type id (10_state R77). THRU and VIBRATO have none; `ext[t - 5]` is the record
of the external type t in [5, 127] (R81). -/
structure Slot (K : Type := Rat) where
  flanger : FlangerState K
  compressor : CompressorState K
  gate : GateState K
  ext : Vector (ExtRecord K) 123
deriving DecidableEq, Repr

/-- S: the runtime state (10_state R20, R74 to R81). -/
structure Runtime (K : Type := Rat) where
  rv : ReverbState K
  chorus : ChorusState K
  eq : EqState K
  /-- The system variation slot V. -/
  variation : Slot K
  /-- The insertion slots I[0..15]. -/
  insertion : Vector (Slot K) 16
deriving DecidableEq, Repr

/-! ## Results -/

/-- The causes of a ContractError (60_exceptions R381). -/
inductive ContractCode where
  /-- Code 1, FRAME_COUNT: nF ≠ 16. -/
  | frameCount
  /-- Code 2, LEVEL_COUNT: nF = 16 and nLv ∉ {0, 16}. -/
  | levelCount
deriving DecidableEq, Repr

/-- What a command returns to the host (30_encoding R137). -/
inductive Result (K : Type := Rat) where
  | ok
  /-- The byte string of ENC (30_encoding R147). -/
  | bytes (out : List Byte)
  | snapshot (s : Snapshot K)
  /-- The 16 output frames of PROC. -/
  | frames (out : Vector (Stereo K) 16)
  /-- `ERROR(code)` (60_exceptions R381). -/
  | error (code : ContractCode)
  /-- REFUSED (30_encoding R151). -/
  | refused
deriving DecidableEq, Repr

/-! ## The state -/

/-- `State = (P, CH[0..15], S)` (10_state R20), with the two ends of the host interface. -/
structure State (K : Type := Rat) where
  p : Params K
  ch : Vector (Channel K) 16
  rt : Runtime K
  /-- The items the host has issued and the engine has not yet taken (30_encoding R130). The model's own field,
  notes/assumptions/7.md. -/
  port : List (PortItem K)
  /-- The result of the last command, none before the first (30_encoding R137). The model's own field,
  notes/assumptions/10.md. -/
  result : Option (Result K)
deriving DecidableEq, Repr

/-! ## Reset -/

section Reset
variable {K : Type} [Zero K] [One K] [Add K] [Sub K] [Mul K] [Div K] [Neg K] [NatCast K] [IntCast K] [Max K] [Min K]
  [LT K] [DecidableLT K] [DecidableEq K]

/-- A ring whose every element is 0.0, as an empty list of entries. -/
def emptyRing : RingMemory K := []

/-- The phase 0. -/
def zeroAngle : Angle K := ⟨0⟩

def resetLine : Line K := ⟨emptyRing, 0⟩

def resetBiquad : BiquadState K := ⟨0, 0, 0, 0⟩

def resetEqSide : EqSide K := ⟨resetBiquad, resetBiquad, resetBiquad⟩

/-- A slot after reset: R78 to R81. -/
def resetSlot (cfg : Config K) : Slot K where
  flanger := ⟨emptyRing, emptyRing, 0, zeroAngle⟩
  compressor := ⟨0⟩
  gate := ⟨0, 0⟩
  ext := Vector.ofFn fun t => cfg.ext.init (t.val + 5)

/-- S after reset (10_state R74 to R81, 70_reset_and_hazards R401). -/
def resetRuntime (cfg : Config K) : Runtime K where
  rv := ⟨resetLine, Vector.replicate 8 resetLine, Vector.replicate 4 resetLine⟩
  chorus := ⟨emptyRing, emptyRing, 0, zeroAngle, cfg.chorusRPhase0⟩
  eq := ⟨resetEqSide, resetEqSide⟩
  variation := resetSlot cfg
  insertion := Vector.replicate 16 (resetSlot cfg)

/-- The block as it is constructed (70_reset_and_hazards R400): P, CH and S at their reset values; nothing on the port and
no result yet. -/
def State.resetWith (cfg : Config K) : State K where
  p := resetSnapshot.p
  ch := resetSnapshot.ch
  rt := resetRuntime cfg
  port := []
  result := none

end Reset

/-- The machine right after reset. -/
def State.reset : State := State.resetWith Config.machine

/-! ## Stops -/

/-- The reasons a step can fault. The spec's own errors are results, not faults (60_exceptions R380, R385;
notes/assumptions/15.md). -/
inductive Fault where
  /-- Raised by the fetch of a step when an item of the port is of another kind than the record format asks for (a real
  where a byte is due). The host transport of 30_encoding R135 and R136 does not produce such a record and the spec gives it no
  meaning. Safe: the model stops. notes/assumptions/9.md. -/
  | wrongItem
deriving DecidableEq, Repr

/-- The reasons a step can be refused. -/
inductive Refusal where
  /-- Raised by an arm of `exec` whose instruction has no meaning in the model yet. Safe: the model stops. No arm raises
  it. -/
  | notModelled (mnemonic : String)
deriving DecidableEq, Repr

end Sys2Proof.Machine
end

