-- ==== Sys2Proof/Machine/Ops.lean ====
section
/-! DEFINITION. The shared operations over ring memories, parameter registers, channel banks and results, and the one
exception. -/

namespace Sys2Proof.Machine

variable {K : Type} [Zero K] [One K] [Add K] [Sub K] [Mul K] [Div K] [Neg K] [NatCast K] [IntCast K] [Max K] [Min K]
  [LT K] [DecidableLT K] [DecidableEq K]

/-! ## Ring memories (20_memory R100 to R104) -/

/-- The element at an index below the capacity; 0 where nothing is listed. -/
def ringGet : RingMemory K → Nat → K
  | [], _ => 0
  | (j, u) :: rest, i => if i = j then u else ringGet rest i

/-- Store at an index below the capacity; storing 0 removes the entry, so the canonical form holds. -/
def ringPut : RingMemory K → Nat → K → RingMemory K
  | [], i, v => if v = 0 then [] else [(i, v)]
  | (j, u) :: rest, i, v =>
    if i < j then (if v = 0 then (j, u) :: rest else (i, v) :: (j, u) :: rest)
    else if i = j then (if v = 0 then rest else (i, v) :: rest)
    else (j, u) :: ringPut rest i v

/-- The canonical form from an index on: indices strictly rising and below the capacity, no element 0. -/
def ringWfFrom (cap : Nat) : Nat → RingMemory K → Bool
  | _, [] => true
  | lo, (j, u) :: rest => decide (lo ≤ j) && decide (j < cap) && decide (u ≠ 0) && ringWfFrom cap (j + 1) rest

/-- A ring of a capacity is in its canonical form. -/
def ringWf (cap : Nat) (b : RingMemory K) : Bool := ringWfFrom cap 0 b

/-- The element a ring index names: `i mod cap(B)`, never negative (20_memory R101, 00_scope R8). -/
def ringIndex (cap : Nat) (i : Int) : Nat := (i % (cap : Int)).toNat

/-- `RingRead(B, i)` (20_memory R101). -/
def ringRead (cap : Nat) (b : RingMemory K) (i : Int) : K := ringGet b (ringIndex cap i)

/-- `RingWrite(B, i, v)`: one element changes (20_memory R101). -/
def ringWrite (cap : Nat) (b : RingMemory K) (i : Int) (v : K) : RingMemory K := ringPut b (ringIndex cap i) v

/-- `Advance(w, B)` (20_memory R101). -/
def advance (cap w : Nat) : Nat := (w + 1) % cap

/-- `FracRead(B, w, d)`: linear interpolation between two neighbours (20_memory R103). -/
def fracRead (n : Numerics K) (cap : Nat) (b : RingMemory K) (w : Nat) (d : K) : K :=
  let d' := clampScalar d 1 ((cap : K) - 2)
  let i := n.floor d'
  let f := d' - i
  (1 - f) * ringRead cap b (w - i) + f * ringRead cap b (w - i - 1)

/-- `DelayRead(B, w, L)` (20_memory R104). -/
def delayRead (cap : Nat) (b : RingMemory K) (w : Nat) (len : Nat) : K := ringRead cap b ((w : Int) - len)

/-- Write at a line's pointer and advance it. -/
def pushLine (cap : Nat) (line : Line K) (v : K) : Line K :=
  ⟨ringWrite cap line.buf line.w v, advance cap line.w⟩

/-! ### The canonical form of every ring -/

def slotWf (cfg : Config K) (s : Slot K) : Bool :=
  ringWf cfg.flangerCap s.flanger.bufL && ringWf cfg.flangerCap s.flanger.bufR

/-- Every ring memory of 20_memory R102 is in its canonical form. -/
def Memory.wf (cfg : Config K) (rt : Runtime K) : Bool :=
  ringWf cfg.pdCap rt.rv.pd.buf &&
  rt.rv.comb.toList.all (fun line => ringWf cfg.combCap line.buf) &&
  (List.finRange 4).all (fun j => ringWf cfg.apLen[j] rt.rv.ap[j].buf) &&
  ringWf cfg.chorusCap rt.chorus.bufL && ringWf cfg.chorusCap rt.chorus.bufR &&
  slotWf cfg rt.variation && rt.insertion.toList.all (slotWf cfg)

/-! ## Results and the one exception -/

/-- End the command with a result (30_encoding R137). -/
def answer (r : Result K) (s : State K) : State K := { s with result := some r }

/-- `raise ContractError(code)`: the command ends with result `ERROR(code)` and with P, CH and S as they were
(60_exceptions R381). There is no handler, vector, saved state or mode change, and so no return (R385). -/
def raiseContractError (code : ContractCode) (s : State K) : State K := answer (.error code) s

/-! ## Parameter registers -/

/-- Change one channel bank; an index outside [0, 15] names no bank (10_state R70). -/
def modifyBank (c : Nat) (f : Channel K → Channel K) (s : State K) : State K :=
  if h : c < 16 then { s with ch := s.ch.set c (f s.ch[c]) } else s

/-- `WriteField(d, c, x)` (40_protocol R183): a system field takes the value whatever c is; a channel field of bank c
takes it. -/
def writeField (f : ParamField) (c : Nat) (x : Value K) (s : State K) : State K :=
  match f with
  | .sys g => { s with p := writeSys s.p g x }
  | .ch g => modifyBank c (fun bank => writeCh bank g x) s

/-- `Admissible(ch, vH, vL)` (40_protocol R182). -/
def admissible (ch vH vL : Byte) : Bool :=
  isDataByte vH && isDataByte vL && (decide (ch.toNat ≤ 0x0F) || ch == 0xFF)

/-- `Resolve(ch)`: the explicit channel, or the cursor `global.current_channel` where the channel byte is absent
(40_protocol R181). A cursor outside [0, 15] names no bank; no run reaches one (notes/assumptions/13.md). -/
def resolveChannel (ch : Byte) (s : State K) : Nat :=
  if ch = 0xFF then (if s.p.global.currentChannel < 0 then 16 else s.p.global.currentChannel.toNat) else ch.toNat

/-- The write of a PU to a field of the table, without its result: dropped when not admissible (40_protocol R180, R182). -/
def paramWrite (f : ParamField) (ch vH vL : Byte) (s : State K) : State K :=
  if admissible ch vH vL then
    writeField f (resolveChannel ch s) (decodeValue (fieldTransform f) (value14 vH vL)) s
  else s

/-- `PU(ch, aH, aL, vH, vL)` without its result: an unknown address is ignored (40_protocol R180). -/
def parameterUpdate (ch aH aL vH vL : Byte) (s : State K) : State K :=
  match descriptor aH aL with
  | some f => paramWrite f ch vH vL s
  | none => s

/-! ## The host's side -/

/-- The host issues items on the port (30_encoding R130). -/
def submit (items : List (PortItem K)) (s : State K) : State K := { s with port := s.port ++ items }

end Sys2Proof.Machine
end

