-- ==== Sys2Proof/Machine/BulkDump.lean ====
section
/-! DEFINITION. The ENC family: bulk-dump encode (30_encoding R147, 40_protocol R191). -/

namespace Sys2Proof.Machine

variable {K : Type} [Zero K] [One K] [Add K] [Sub K] [Mul K] [Div K] [Neg K] [NatCast K] [IntCast K] [Max K] [Min K]
  [LT K] [DecidableLT K] [DecidableEq K]

/-- A record's value bytes: `v >> 7, v & 0x7F` (40_protocol R191). -/
def valueBytes (v : Nat) : List Byte := [highByte v, lowByte v]

/-- The record of one system field (40_protocol R191). -/
def systemDumpRecord (n : Numerics K) (p : Params K) (f : SysField) : List Byte :=
  [0x00, sysAddress f] ++ valueBytes (encodeValue n (sysTransform f) (readSys p f))

/-- The record of one field of channel c (40_protocol R191). -/
def channelDumpRecord (n : Numerics K) (c : Nat) (bank : Channel K) (f : ChField) : List Byte :=
  [BitVec.ofNat 8 c, 0x00, chAddress f] ++ valueBytes (encodeValue n (chTransform f) (readCh bank f))

/-- The records of the system scope, in ascending aL order. -/
def systemDumpRecords (n : Numerics K) (p : Params K) : List Byte := sysFields.flatMap (systemDumpRecord n p)

/-- The records of channels 0 to 15, each in ascending aL order. -/
def channelDumpRecords (n : Numerics K) (ch : Vector (Channel K) 16) : List Byte :=
  (List.finRange 16).flatMap fun c => chFields.flatMap (channelDumpRecord n c.val ch[c])

/-- `ENC(0x00)` (40_protocol R191). -/
def systemDump (cfg : Config K) (p : Params K) : List Byte := [cfg.vendorId, 0x7F, 0x00, 0x03] ++ systemDumpRecords cfg.num p

/-- `ENC(0x01)` (40_protocol R191). -/
def channelDump (cfg : Config K) (ch : Vector (Channel K) 16) : List Byte :=
  [cfg.vendorId, 0x7F, 0x00, 0x04] ++ channelDumpRecords cfg.num ch

/-- ENC.SYS in a block with the given parameters: "Side effect: none (pure read)" (40_protocol R191). -/
def execEncSysFor (cfg : Config K) (s : State K) : Host.Outcome (State K) Fault Refusal :=
  .next (answer (.bytes (systemDump cfg s.p)) s)

/-- ENC.CHAN in a block with the given parameters (40_protocol R191). -/
def execEncChanFor (cfg : Config K) (s : State K) : Host.Outcome (State K) Fault Refusal :=
  .next (answer (.bytes (channelDump cfg s.ch)) s)

/-- ENC.SYS (40_protocol R191). -/
def execEncSys (s : State) : Host.Outcome State Fault Refusal := execEncSysFor Config.machine s

/-- ENC.CHAN (40_protocol R191). -/
def execEncChan (s : State) : Host.Outcome State Fault Refusal := execEncChanFor Config.machine s

end Sys2Proof.Machine
end

