-- ==== Sys2Proof/Machine/Flags.lean ====
section
/-! DEFINITION. The flags (10_state R73) and the predicate computed from them. The block has no condition codes. -/

namespace Sys2Proof.Machine

variable {K : Type}

/-- `any_solo = ∃c. CH[c].solo`, recomputed by every PROC and not stored (10_state R73). -/
def anySolo (ch : Vector (Channel K) 16) : Bool := ch.toList.any (fun c => c.solo)

/-- `Active(c)`: the soloed channels if any channel is soloed, else the channels not muted (41_mixing R222). -/
def isActive (ch : Vector (Channel K) 16) (c : Channel K) : Bool := if anySolo ch then c.solo else !c.mute

/-- At least one channel is active (41_mixing R225). -/
def anyActive (ch : Vector (Channel K) 16) : Bool := ch.toList.any (isActive ch)

end Sys2Proof.Machine
end

