-- ==== Sys2Proof/Machine/Equalizer.lean ====
section
/-! DEFINITION. The biquad equalizer (42_routing_eq R250 to R258). -/

namespace Sys2Proof.Machine

variable {K : Type} [Zero K] [One K] [Add K] [Sub K] [Mul K] [Div K] [Neg K] [NatCast K] [IntCast K] [Max K] [Min K]
  [LT K] [DecidableLT K] [DecidableEq K]

/-- Coefficients of a band before normalisation (42_routing_eq R252 to R254). -/
structure RawCoeffs (K : Type := Rat) where
  b0 : K
  b1 : K
  b2 : K
  a0 : K
  a1 : K
  a2 : K
deriving DecidableEq, Repr

/-- Normalised coefficients B0, B1, B2, A1, A2 (42_routing_eq R255). -/
structure Coeffs (K : Type := Rat) where
  b0 : K
  b1 : K
  b2 : K
  a1 : K
  a2 : K
deriving DecidableEq, Repr

/-- `A = 10^(G / 40)` (42_routing_eq R251). -/
def bandAmp (cfg : Config K) (gain : K) : K := cfg.num.pow10 (gain / 40)

/-- `w0 = 2 * pi * f0 / fs` (42_routing_eq R251). -/
def bandOmega (cfg : Config K) (f0 : K) : Angle K := ⟨twoPi cfg.num * f0 / cfg.fs⟩

/-- `al = sn / sqrt(2)` of a shelf (42_routing_eq R252, R254). -/
def shelfAlpha (cfg : Config K) (f0 : K) : K :=
  quot cfg.num (cfg.num.sin (bandOmega cfg f0)) (cfg.num.sqrt 2)

/-- Low shelf (42_routing_eq R252). -/
def lowShelf (cfg : Config K) (gain f0 : K) : RawCoeffs K :=
  let A := bandAmp cfg gain
  let cs := cfg.num.cos (bandOmega cfg f0)
  let al := shelfAlpha cfg f0
  let q := 2 * cfg.num.sqrt A * al
  { b0 := A * ((A + 1) - (A - 1) * cs + q)
    b1 := 2 * A * ((A - 1) - (A + 1) * cs)
    b2 := A * ((A + 1) - (A - 1) * cs - q)
    a0 := (A + 1) + (A - 1) * cs + q
    a1 := -2 * ((A - 1) + (A + 1) * cs)
    a2 := (A + 1) + (A - 1) * cs - q }

/-- Peaking band (42_routing_eq R253). -/
def peaking (cfg : Config K) (gain f0 quality : K) : RawCoeffs K :=
  let A := bandAmp cfg gain
  let cs := cfg.num.cos (bandOmega cfg f0)
  let al := quot cfg.num (cfg.num.sin (bandOmega cfg f0)) (2 * quality)
  { b0 := 1 + al * A
    b1 := -2 * cs
    b2 := 1 - al * A
    a0 := 1 + quot cfg.num al A
    a1 := -2 * cs
    a2 := 1 - quot cfg.num al A }

/-- High shelf (42_routing_eq R254). -/
def highShelf (cfg : Config K) (gain f0 : K) : RawCoeffs K :=
  let A := bandAmp cfg gain
  let cs := cfg.num.cos (bandOmega cfg f0)
  let al := shelfAlpha cfg f0
  let q := 2 * cfg.num.sqrt A * al
  { b0 := A * ((A + 1) + (A - 1) * cs + q)
    b1 := -2 * A * ((A - 1) + (A + 1) * cs)
    b2 := A * ((A + 1) + (A - 1) * cs - q)
    a0 := (A + 1) - (A - 1) * cs + q
    a1 := 2 * ((A - 1) - (A + 1) * cs)
    a2 := (A + 1) - (A - 1) * cs - q }

/-- Normalisation by a0 (42_routing_eq R255). -/
def normalise (cfg : Config K) (c : RawCoeffs K) : Coeffs K :=
  { b0 := quot cfg.num c.b0 c.a0
    b1 := quot cfg.num c.b1 c.a0
    b2 := quot cfg.num c.b2 c.a0
    a1 := quot cfg.num c.a1 c.a0
    a2 := quot cfg.num c.a2 c.a0 }

/-- One biquad step, direct form I (42_routing_eq R256). -/
def biquad (c : Coeffs K) (st : BiquadState K) (u : K) : K × BiquadState K :=
  let y := c.b0 * u + c.b1 * st.x1 + c.b2 * st.x2 - c.a1 * st.y1 - c.a2 * st.y2
  (y, ⟨u, st.x1, y, st.y1⟩)

/-- The cascade low, mid, high of one side, with coefficients of the current P (42_routing_eq R250, R257). -/
def eqSide (cfg : Config K) (p : EqParams K) (st : EqSide K) (u : K) : K × EqSide K :=
  let low := biquad (normalise cfg (lowShelf cfg p.lowGain cfg.eqLowFreq)) st.low u
  let mid := biquad (normalise cfg (peaking cfg p.midGain p.midFreq p.midQ)) st.mid low.1
  let high := biquad (normalise cfg (highShelf cfg p.highGain cfg.eqHighFreq)) st.high mid.1
  (high.1, ⟨low.2, mid.2, high.2⟩)

/-- `EQ(u)` (42_routing_eq R257). -/
def equalize (cfg : Config K) (p : EqParams K) (st : EqState K) (u : Stereo K) : Stereo K × EqState K :=
  let left := eqSide cfg p st.left u.l
  let right := eqSide cfg p st.right u.r
  (⟨left.1, right.1⟩, ⟨left.2, right.2⟩)

end Sys2Proof.Machine
end

