-- ==== Sys2Proof/Machine/Dynamics.lean ====
section
/-! DEFINITION. The envelope follower, the compressor and the gate (46_dynamics). -/

namespace Sys2Proof.Machine

variable {K : Type} [Zero K] [One K] [Add K] [Sub K] [Mul K] [Div K] [Neg K] [NatCast K] [IntCast K] [Max K] [Min K]
  [LT K] [DecidableLT K] [DecidableEq K]

/-! ## Envelope follower -/

/-- `exp(−1 / (t · fs))` (46_dynamics R351, R356). -/
def decayFactor (cfg : Config K) (t : K) : K := cfg.num.exp (quot cfg.num (-1) (t * cfg.fs))

/-- `Coef(t)` (46_dynamics R351). -/
def rampCoef (cfg : Config K) (t : K) : K := if 0 < t then 1 - decayFactor cfg t else 1

/-- `Follow(env, e, aA, aR)` (46_dynamics R352). -/
def follow (env e attack release : K) : K :=
  let a := if env < e then attack else release
  env + a * (e - env)

/-! ## Compressor, registry type 3 -/

/-- The threshold of a compressor, −60 to 0 dB (46_dynamics R354). -/
def compressorThreshold (cfg : Config K) (p1 : K) : K := linearLevel cfg.num (-60 + 60 * p1)

/-- The gain of a compressor at an envelope (46_dynamics R354). -/
def compressorGain (cfg : Config K) (p : GenericParams K) (env : K) : K :=
  let thr := compressorThreshold cfg p.p1
  let ratio := 1 + 19 * p.p2
  if thr < env then cfg.num.pow (quot cfg.num thr env) (1 - quot cfg.num 1 ratio) else 1

/-- The envelope after a frame (46_dynamics R354). -/
def compressorEnv (cfg : Config K) (x : Stereo K) (p : GenericParams K) (env : K) : K :=
  follow env (levelOf x) (rampCoef cfg (1 / 10000 + 999 / 10000 * p.p3)) (rampCoef cfg (1 / 100 + 99 / 100 * p.p4))

/-- `Proc_3(x, p, st)`: the gain is computed from the envelope after this frame's update (46_dynamics R354). -/
def procCompressor (cfg : Config K) (x : Stereo K) (p : GenericParams K) (st : CompressorState K) : Stereo K × CompressorState K :=
  let env := compressorEnv cfg x p st.env
  (scaleFrame (compressorGain cfg p env) x, ⟨env⟩)

/-! ## Gate, registry type 4 -/

/-- The threshold of a gate, −80 to 0 dB (46_dynamics R356). -/
def gateThreshold (cfg : Config K) (p1 : K) : K := linearLevel cfg.num (-80 + 80 * p1)

/-- `H = floor(0.5 · p2 · fs)`, the hold time in frames (46_dynamics R356). -/
def gateHold (cfg : Config K) (p2 : K) : Nat := (cfg.num.floor (1 / 2 * p2 * cfg.fs)).toNat

/-- `c = exp(−1 / (tau · fs))` (46_dynamics R356). -/
def gateDecay (cfg : Config K) (p3 : K) : K := decayFactor cfg (1 / 1000 + 999 / 1000 * p3)

/-- `Proc_4(x, p, st)`: open, hold, closing (46_dynamics R356). -/
def procGate (cfg : Config K) (x : Stereo K) (p : GenericParams K) (st : GateState K) : Stereo K × GateState K :=
  if gateThreshold cfg p.p1 < levelOf x then
    (x, ⟨1, gateHold cfg p.p2⟩)
  else if 0 < st.h then
    (scaleFrame st.g x, ⟨st.g, st.h - 1⟩)
  else
    let g := st.g * gateDecay cfg p.p3
    (scaleFrame (g * cfg.gateAtten) x, ⟨g, st.h⟩)

end Sys2Proof.Machine
end

