-- ==== Sys2Proof/Machine/Modulation.lean ====
section
/-! DEFINITION. The LFO, the modulated delay line, the chorus, the flanger and the vibrato (45_chorus_moddelay). -/

namespace Sys2Proof.Machine

variable {K : Type} [Zero K] [One K] [Add K] [Sub K] [Mul K] [Div K] [Neg K] [NatCast K] [IntCast K] [Max K] [Min K]
  [LT K] [DecidableLT K] [DecidableEq K]

/-! ## Low-frequency oscillator -/

/-- The waveforms of 45_chorus_moddelay R321. -/
inductive Waveform where
  | sine
  | triangle
  | square
  | saw
deriving DecidableEq, Repr

/-- `Wave(w, φ)`, with `t = φ / (2π)` (45_chorus_moddelay R321). -/
def wave (n : Numerics K) (w : Waveform) (ph : Angle K) : K :=
  let t := ph.val / twoPi n
  match w with
  | .sine => n.sin ph
  | .triangle => if t < 1 / 4 then 4 * t else if t < 3 / 4 then 2 - 4 * t else 4 * t - 4
  | .square => if t < 1 / 2 then 1 else -1
  | .saw => if t < 1 / 2 then 2 * t else 2 * t - 2

/-- `φ <- (φ + 2π · rate / fs) mod 2π` (45_chorus_moddelay R322). -/
def advancePhase (cfg : Config K) (rate : K) (ph : Angle K) : Angle K :=
  wrapAngle cfg.num ⟨ph.val + twoPi cfg.num * rate / cfg.fs⟩

/-! ## Chorus -/

/-- The delay in samples of a lane whose LFO phase is ph (45_chorus_moddelay R326). -/
def chorusDelay (cfg : Config K) (p : ChorusParams K) (ph : Angle K) : K :=
  cfg.fs * (p.baseDelay + p.depth * cfg.chorusDepthMax * cfg.num.sin ph)

/-- One lane of the blend (45_chorus_moddelay R328). -/
def chorusBlend (p : ChorusParams K) (x y : K) : K := p.level * ((1 - p.output) * x + p.output * y)

/-- `Fx(Chorus, x)`: both lines are read before either is written (45_chorus_moddelay R326 to R330). -/
def fxChorus (cfg : Config K) (p : ChorusParams K) (st : ChorusState K) (x : Stereo K) : Stereo K × ChorusState K :=
  let yL := fracRead cfg.num cfg.chorusCap st.bufL st.w (chorusDelay cfg p st.phL)
  let yR := fracRead cfg.num cfg.chorusCap st.bufR st.w (chorusDelay cfg p st.phR)
  let fb := cfg.chorusFbMax * p.feedback
  let xf := cfg.chorusFbMax * p.crossFeedback
  (⟨chorusBlend p x.l yL, chorusBlend p x.r yR⟩,
   { bufL := ringWrite cfg.chorusCap st.bufL st.w (x.l + fb * yL + xf * yR)
     bufR := ringWrite cfg.chorusCap st.bufR st.w (x.r + fb * yR + xf * yL)
     w := advance cfg.chorusCap st.w
     phL := advancePhase cfg p.rate st.phL
     phR := advancePhase cfg p.rate st.phR })

/-! ## Flanger, registry type 1 -/

/-- `[SINE, TRIANGLE, SQUARE, SAW][min(3, floor(4 · p4))]` (45_chorus_moddelay R332). -/
def flangerWaveform (n : Numerics K) (p4 : K) : Waveform :=
  let k := min 3 (n.floor (4 * p4))
  if k ≤ 0 then .sine else if k = 1 then .triangle else if k = 2 then .square else .saw

/-- `Proc_1(x, p, st)` (45_chorus_moddelay R332). -/
def procFlanger (cfg : Config K) (x : Stereo K) (p : GenericParams K) (st : FlangerState K) : Stereo K × FlangerState K :=
  let rate := 10 * p.p1
  let d := cfg.fs * (cfg.flangerBase + cfg.flangerDepthMax * p.p2 * wave cfg.num (flangerWaveform cfg.num p.p4) st.ph)
  let fb := cfg.flangerFbMax * p.p3
  let yL := fracRead cfg.num cfg.flangerCap st.bufL st.w d
  let yR := fracRead cfg.num cfg.flangerCap st.bufR st.w d
  (⟨1 / 2 * (x.l + yL), 1 / 2 * (x.r + yR)⟩,
   { bufL := ringWrite cfg.flangerCap st.bufL st.w (x.l + fb * yL)
     bufR := ringWrite cfg.flangerCap st.bufR st.w (x.r + fb * yR)
     w := advance cfg.flangerCap st.w
     ph := advancePhase cfg rate st.ph })

/-! ## Vibrato, registry type 2 -/

/-- `Proc_2(x, p, –) = (x, –)`: the identity (45_chorus_moddelay R333). -/
def procVibrato (x : Stereo K) : Stereo K := x

end Sys2Proof.Machine
end

