-- ==== Sys2Proof/Machine/Registry.lean ====
section
/-! DEFINITION. The effect-processor registry: type ids to processors, for the variation and insertion slots
(43_registry). -/

namespace Sys2Proof.Machine

variable {K : Type} [Zero K] [One K] [Add K] [Sub K] [Mul K] [Div K] [Neg K] [NatCast K] [IntCast K] [Max K] [Min K]
  [LT K] [DecidableLT K] [DecidableEq K]

/-- `Proc_0(x, p, –) = (x, –)` (43_registry R274). -/
def procThru (x : Stereo K) : Stereo K := x

/-- `ExtProc(t)` on the slot's record of type t (43_registry R276), for t in [5, 127]; no other id is registered, and the
dispatch default is the identity (R275). -/
def procExternal (cfg : Config K) (t : Int) (x : Stereo K) (p : GenericParams K) (slot : Slot K) : Stereo K × Slot K :=
  if h : (t - 5).toNat < 123 ∧ 5 ≤ t then
    let out := cfg.ext.run t.toNat x p (slot.ext[(t - 5).toNat]'h.1)
    (out.1, { slot with ext := slot.ext.set (t - 5).toNat out.2 h.1 })
  else (x, slot)

/-- `Proc_t` on a slot (43_registry R271, R272): a slot running type t uses and updates only `st[t]`. -/
def runProcessor (cfg : Config K) (t : Int) (x : Stereo K) (p : GenericParams K) (slot : Slot K) : Stereo K × Slot K :=
  if t = 0 then (procThru x, slot)
  else if t = 1 then
    let out := procFlanger cfg x p slot.flanger
    (out.1, { slot with flanger := out.2 })
  else if t = 2 then (procVibrato x, slot)
  else if t = 3 then
    let out := procCompressor cfg x p slot.compressor
    (out.1, { slot with compressor := out.2 })
  else if t = 4 then
    let out := procGate cfg x p slot.gate
    (out.1, { slot with gate := out.2 })
  else procExternal cfg t x p slot

/-- `SlotRun(slot, t, p, level, x)` (43_registry R273). -/
def slotRun (cfg : Config K) (slot : Slot K) (t : Int) (p : GenericParams K) (level : K) (x : Stereo K) : Stereo K × Slot K :=
  let out := runProcessor cfg t x p slot
  (scaleFrame level out.1, out.2)

/-- `Fx(Variation, x)`: a bypassed variation is silent and its slot does not advance (43_registry R277). -/
def fxVariation (cfg : Config K) (p : VariationParams K) (slot : Slot K) (x : Stereo K) : Stereo K × Slot K :=
  if p.bypass then (silence, slot)
  else slotRun cfg slot p.typeId ⟨p.param1, p.param2, p.param3, p.param4⟩ p.level x

/-- The insertion effect of a channel (43_registry R278). -/
def fxInsertion (cfg : Config K) (bank : Channel K) (slot : Slot K) (x : Stereo K) : Stereo K × Slot K :=
  slotRun cfg slot bank.insType ⟨bank.insParam1, bank.insParam2, bank.insParam3, bank.insParam4⟩ bank.insLevel x

end Sys2Proof.Machine
end

