-- ==== Sys2Proof/Machine/Reverb.lean ====
section
/-! DEFINITION. The reverb network (44_reverb R290 to R306). -/

namespace Sys2Proof.Machine

variable {K : Type} [Zero K] [One K] [Add K] [Sub K] [Mul K] [Div K] [Neg K] [NatCast K] [IntCast K] [Max K] [Min K]
  [LT K] [DecidableLT K] [DecidableEq K]

/-! ## Derived quantities, recomputed at every frame (44_reverb R291 to R294, R304) -/

/-- `N = min(8, 4 + floor(4 · density))` (44_reverb R291). -/
def combCount (cfg : Config K) (p : ReverbParams K) : Nat := (min 8 (4 + cfg.num.floor (4 * p.density))).toNat

/-- `L_k` (44_reverb R292). -/
def combLength (cfg : Config K) (p : ReverbParams K) (k : Nat) : Nat :=
  (clampInt (cfg.num.floor (cfg.fs * p.time * cfg.combK * (k + 1))) 1 (cfg.combCap - 1)).toNat

/-- `g_k` (44_reverb R293). -/
def combGain (cfg : Config K) (p : ReverbParams K) (k : Nat) : K :=
  (cfg.combG0 + cfg.combGStep * k) * (1 - cfg.combDamp * p.hfDamping)

/-- `Dp` (44_reverb R294). -/
def predelayLength (cfg : Config K) (p : ReverbParams K) : Nat :=
  (clampInt (cfg.num.floor (cfg.fs * p.preDelay)) 0 (cfg.pdCap - 1)).toNat

/-! ## Per-frame steps -/

/-- `Predelay(u)`: write, then read (44_reverb R295). -/
def predelay (cfg : Config K) (p : ReverbParams K) (pd : Line K) (u : K) : K × Line K :=
  let buf := ringWrite cfg.pdCap pd.buf pd.w u
  (delayRead cfg.pdCap buf pd.w (predelayLength cfg p), ⟨buf, advance cfg.pdCap pd.w⟩)

/-- `Comb(k, q)` (44_reverb R297). -/
def combStep (cfg : Config K) (p : ReverbParams K) (k : Nat) (line : Line K) (q : K) : K × Line K :=
  let d := delayRead cfg.combCap line.buf line.w (combLength cfg p k)
  (d, pushLine cfg.combCap line (q + combGain cfg p k * d))

/-- The output of comb k in the bank, and its new line: a comb k ≥ N does not run (44_reverb R298, R303). -/
def combLane (cfg : Config K) (p : ReverbParams K) (comb : Vector (Line K) 8) (q : K) (k : Fin 8) : K × Line K :=
  if k.val < combCount cfg p then combStep cfg p k.val comb[k] q else (0, comb[k])

/-- `t = Σ Comb(k, q)` over k < N, in index order, without normalisation (44_reverb R298). -/
def combBank (cfg : Config K) (p : ReverbParams K) (comb : Vector (Line K) 8) (q : K) : K × Vector (Line K) 8 :=
  (sumInOrder ((List.finRange 8).map fun k => (combLane cfg p comb q k).1),
   Vector.ofFn fun k => (combLane cfg p comb q k).2)

/-- `Allpass(j, t)` (44_reverb R299). -/
def allpassStep (cfg : Config K) (j : Fin 4) (line : Line K) (t : K) : K × Line K :=
  let d := ringRead cfg.apLen[j] line.buf line.w
  let y := d - cfg.apG * t
  (y, pushLine cfg.apLen[j] line (t + cfg.apG * y))

/-- The cascade of four allpasses in index order (44_reverb R300). -/
def allpassCascade (cfg : Config K) (ap : Vector (Line K) 4) (t : K) : K × Vector (Line K) 4 :=
  let a0 := allpassStep cfg 0 ap[0] t
  let a1 := allpassStep cfg 1 ap[1] a0.1
  let a2 := allpassStep cfg 2 ap[2] a1.1
  let a3 := allpassStep cfg 3 ap[3] a2.1
  (a3.1, #v[a0.2, a1.2, a2.2, a3.2])

/-- `Fx(Reverb, x)` (44_reverb R302). -/
def fxReverb (cfg : Config K) (p : ReverbParams K) (rv : ReverbState K) (x : Stereo K) : Stereo K × ReverbState K :=
  let u := (x.l + x.r) / 2
  let q := predelay cfg p rv.pd u
  let t := combBank cfg p rv.comb q.1
  let a := allpassCascade cfg rv.ap t.1
  (⟨p.level * a.1, p.level * a.1⟩, ⟨q.2, t.2, a.2⟩)

end Sys2Proof.Machine
end

