-- ==== Sys2Proof/Machine/Routing.lean ====
section
/-! DEFINITION. System-effect routing (42_routing_eq R240 to R246). -/

namespace Sys2Proof.Machine

variable {K : Type} [Zero K] [One K] [Add K] [Sub K] [Mul K] [Div K] [Neg K] [NatCast K] [IntCast K] [Max K] [Min K]
  [LT K] [DecidableLT K] [DecidableEq K]

/-- The three system effects (42_routing_eq R240). -/
inductive Effect where
  | reverb
  | chorus
  | variation
deriving DecidableEq, Repr

/-- An effect order [e0, e1, e2]. -/
structure EffectOrder where
  e0 : Effect
  e1 : Effect
  e2 : Effect
deriving DecidableEq, Repr

/-- `Order(k)`: row k of the permutation table (30_encoding R149, 42_routing_eq R241). The field holds an index in [0, 5]
(10_state R45); any other integer, which no run reaches, gives row 5 (notes/assumptions/13.md). -/
def effectOrder (k : Int) : EffectOrder :=
  if k = 0 then ⟨.reverb, .chorus, .variation⟩
  else if k = 1 then ⟨.reverb, .variation, .chorus⟩
  else if k = 2 then ⟨.chorus, .reverb, .variation⟩
  else if k = 3 then ⟨.chorus, .variation, .reverb⟩
  else if k = 4 then ⟨.variation, .reverb, .chorus⟩
  else ⟨.variation, .chorus, .reverb⟩

/-- `Send(e, e')` for two distinct effects (42_routing_eq R242). -/
def effectSend (p : RoutingParams K) : Effect → Effect → K
  | .reverb, .chorus => p.sendReverbToChorus
  | .reverb, .variation => p.sendReverbToVariation
  | .chorus, .reverb => p.sendChorusToReverb
  | .chorus, .variation => p.sendChorusToVariation
  | .variation, .reverb => p.sendVariationToReverb
  | .variation, .chorus => p.sendVariationToChorus
  | .reverb, .reverb => 0
  | .chorus, .chorus => 0
  | .variation, .variation => 0

/-- `Fx(e, x)`: one effect advances its own state (42_routing_eq R245). -/
def effectStep (cfg : Config K) (p : Params K) (e : Effect) (x : Stereo K) (rt : Runtime K) : Stereo K × Runtime K :=
  match e with
  | .reverb =>
    let out := fxReverb cfg p.reverb rt.rv x
    (out.1, { rt with rv := out.2 })
  | .chorus =>
    let out := fxChorus cfg p.chorus rt.chorus x
    (out.1, { rt with chorus := out.2 })
  | .variation =>
    let out := fxVariation cfg p.variation rt.variation x
    (out.1, { rt with variation := out.2 })

/-- The running signals of Route: the running input, the accumulated output, and the runtime state. -/
structure RouteState (K : Type := Rat) where
  inp : Stereo K
  out : Stereo K
  rt : Runtime K
deriving DecidableEq, Repr

/-- One turn of Route's loop, with outgoing send s (42_routing_eq R240, R243, R244). -/
def routeStage (cfg : Config K) (p : Params K) (e : Effect) (s : K) (r : RouteState K) : RouteState K :=
  let x := if 0 < s then scaleFrame (1 - s) r.inp else r.inp
  let y := effectStep cfg p e x r.rt
  let out := addFrame r.out y.1
  { inp := if 0 < s then scaleFrame s y.1 else out, out := out, rt := y.2 }

/-- The three effects in the configured order; the last effect's outgoing send is never read (42_routing_eq R240). -/
def routeEffects (cfg : Config K) (p : Params K) (bus : Stereo K) (rt : Runtime K) : RouteState K :=
  let ord := effectOrder p.routing.effectOrder
  routeStage cfg p ord.e2 0
    (routeStage cfg p ord.e1 (effectSend p.routing ord.e1 ord.e2)
      (routeStage cfg p ord.e0 (effectSend p.routing ord.e0 ord.e1) ⟨bus, silence, rt⟩))

/-- `Route(bus)` (42_routing_eq R240): the effects, then the equalizer. -/
def route (cfg : Config K) (p : Params K) (bus : Stereo K) (rt : Runtime K) : Stereo K × Runtime K :=
  let r := routeEffects cfg p bus rt
  let out := equalize cfg p.eq r.rt.eq r.out
  (out.1, { r.rt with eq := out.2 })

end Sys2Proof.Machine
end

