-- ==== Sys2Proof/Machine/Mixing.lean ====
section
/-! DEFINITION. PROC and the mixing topology (41_mixing). -/

namespace Sys2Proof.Machine

variable {K : Type} [Zero K] [One K] [Add K] [Sub K] [Mul K] [Div K] [Neg K] [NatCast K] [IntCast K] [Max K] [Min K]
  [LT K] [DecidableLT K] [DecidableEq K]

/-! ## The command's operands -/

/-- `CheckContract(nF, nLv)`: the error PROC raises, if any; code 1 comes first (41_mixing R221, 60_exceptions R382). -/
def checkContract (nF nLv : Nat) : Option ContractCode :=
  if nF ≠ 16 then some .frameCount
  else if nLv ≠ 0 ∧ nLv ≠ 16 then some .levelCount
  else none

/-- frames[c]. -/
def inputFrame (frames : List (Stereo K)) (c : Nat) : Stereo K := frames.getD c silence

/-- `ext[c]`: the level multiplier, 1.0 when nLv = 0 (41_mixing R221). -/
def externalLevel (levels : List K) (c : Nat) : K := levels.getD c 1

/-! ## Insertion stage and system bus -/

/-- `InsertionStage(c, x)` of an active channel (41_mixing R223). -/
def insertionStage (cfg : Config K) (bank : Channel K) (slot : Slot K) (x : Stereo K) : Stereo K × Slot K :=
  if 0 < bank.insertionSend ∧ bank.insBypass = false then
    let out := fxInsertion cfg bank slot x
    (scaleFrame bank.insertionSend out.1, out.2)
  else (x, slot)

/-- The insertion stage of channel c in a PROC: nothing runs for an inactive channel (41_mixing R220, R230). -/
def channelInsertion (cfg : Config K) (ch : Vector (Channel K) 16) (slots : Vector (Slot K) 16) (frames : List (Stereo K))
    (c : Fin 16) : Stereo K × Slot K :=
  if isActive ch ch[c] then insertionStage cfg ch[c] slots[c] (inputFrame frames c.val) else (silence, slots[c])

/-- `BusShare(c, x, e)` (41_mixing R224). -/
def busShare (bank : Channel K) (x : Stereo K) (e : K) : K :=
  (1 - bank.insertionSend) * e * bank.reverbSend * (x.l + x.r)

/-- The share of channel c in a PROC: an inactive channel adds nothing (41_mixing R220). -/
def channelShare (ch : Vector (Channel K) 16) (frames : List (Stereo K)) (levels : List K) (c : Fin 16) : K :=
  if isActive ch ch[c] then busShare ch[c] (inputFrame frames c.val) (externalLevel levels c.val) else 0

/-- The mono bus: the sum of the shares of all active channels, in channel order (41_mixing R220, R224). -/
def systemBus (ch : Vector (Channel K) 16) (frames : List (Stereo K)) (levels : List K) : K :=
  sumInOrder ((List.finRange 16).map (channelShare ch frames levels))

/-- `SystemStage(bus, active)` (41_mixing R225). -/
def systemStage (cfg : Config K) (p : Params K) (ch : Vector (Channel K) 16) (bus : K) (rt : Runtime K) : Stereo K × Runtime K :=
  if p.global.bypass = false ∧ anyActive ch = true then route cfg p ⟨bus, bus⟩ rt else (silence, rt)

/-! ## Channel output -/

/-- `y = ins[c] + reverb_send · sys` (41_mixing R226). -/
def returnMix (bank : Channel K) (ins sys : Stereo K) : Stereo K := addFrame ins (scaleFrame bank.reverbSend sys)

/-- `gL = volume · (1 − pan)` (41_mixing R227). -/
def panGainL (bank : Channel K) : K := bank.volume * (1 - bank.pan)

/-- `gR = volume · pan` (41_mixing R227). -/
def panGainR (bank : Channel K) : K := bank.volume * bank.pan

/-- `Pan(c, y)` (41_mixing R228). -/
def panFrame (cfg : Config K) (bank : Channel K) (y : Stereo K) : Stereo K :=
  match cfg.panMode with
  | .monoSum => ⟨panGainL bank * (y.l + y.r), panGainR bank * (y.l + y.r)⟩
  | .perSide => ⟨panGainL bank * y.l, panGainR bank * y.r⟩

/-- `ChannelOut(c, ins, sys)` (41_mixing R229). -/
def channelOut (cfg : Config K) (p : Params K) (bank : Channel K) (ins sys : Stereo K) : Stereo K :=
  scaleFrame p.global.masterLevel (panFrame cfg bank (returnMix bank ins sys))

/-! ## The frame -/

/-- What one frame gives: the 16 output frames, and the runtime state after it. -/
structure FrameOut (K : Type := Rat) where
  out : Vector (Stereo K) 16
  rt : Runtime K
deriving DecidableEq, Repr

/-- One frame of audio (41_mixing R220): the insertion slots, the bus, the system stage, the channel outputs. -/
def processFrame (cfg : Config K) (p : Params K) (ch : Vector (Channel K) 16) (frames : List (Stereo K)) (levels : List K)
    (rt : Runtime K) : FrameOut K :=
  let ins := channelInsertion cfg ch rt.insertion frames
  let sys := systemStage cfg p ch (systemBus ch frames levels) { rt with insertion := Vector.ofFn fun c => (ins c).2 }
  { out := Vector.ofFn fun c => if isActive ch ch[c] then channelOut cfg p ch[c] (ins c).1 sys.1 else silence
    rt := sys.2 }

/-- PROC under a configuration (41_mixing R220): the contract is checked before any state changes (60_exceptions R381). -/
def processCommand (cfg : Config K) (frames : List (Stereo K)) (levels : List K) (s : State K) : State K :=
  match checkContract frames.length levels.length with
  | some code => raiseContractError code s
  | none =>
    let f := processFrame cfg s.p s.ch frames levels s.rt
    answer (.frames f.out) { s with rt := f.rt }

/-- PROC in a block with the given parameters (41_mixing R220). -/
def execProcFor (cfg : Config K) (frames : List (Stereo K)) (levels : List K) (s : State K) :
    Host.Outcome (State K) Fault Refusal :=
  .next (processCommand cfg frames levels s)

/-- PROC (41_mixing R220). -/
def execProc (frames : List Stereo) (levels : List Scalar) (s : State) : Host.Outcome State Fault Refusal :=
  execProcFor Config.machine frames levels s

end Sys2Proof.Machine
end

