-- ==== Sys2Proof/Machine/ParamUpdate.lean ====
section
/-! DEFINITION. The PU family (40_protocol R180 to R183): the general parameter update, and the write of each row of the
descriptor table (30_encoding R141). -/

namespace Sys2Proof.Machine

variable {K : Type} [Zero K] [One K] [Add K] [Sub K] [Mul K] [Div K] [Neg K] [NatCast K] [IntCast K] [Max K] [Min K]
  [LT K] [DecidableLT K] [DecidableEq K]

/-- PU (40_protocol R180): an inadmissible or unknown write is dropped with result OK. -/
def execPu (ch aH aL vH vL : Byte) (s : State K) : Host.Outcome (State K) Fault Refusal :=
  .next (answer .ok (parameterUpdate ch aH aL vH vL s))

/-- PU.REVERB_TIME (40_protocol R180, 10_state R21). -/
def execPuReverbTime (ch vH vL : Byte) (s : State K) : Host.Outcome (State K) Fault Refusal :=
  .next (answer .ok (paramWrite (.sys .reverbTime) ch vH vL s))

/-- PU.REVERB_PRE_DELAY (40_protocol R180, 10_state R22). -/
def execPuReverbPreDelay (ch vH vL : Byte) (s : State K) : Host.Outcome (State K) Fault Refusal :=
  .next (answer .ok (paramWrite (.sys .reverbPreDelay) ch vH vL s))

/-- PU.REVERB_HF_DAMPING (40_protocol R180, 10_state R23). -/
def execPuReverbHfDamping (ch vH vL : Byte) (s : State K) : Host.Outcome (State K) Fault Refusal :=
  .next (answer .ok (paramWrite (.sys .reverbHfDamping) ch vH vL s))

/-- PU.REVERB_DENSITY (40_protocol R180, 10_state R24). -/
def execPuReverbDensity (ch vH vL : Byte) (s : State K) : Host.Outcome (State K) Fault Refusal :=
  .next (answer .ok (paramWrite (.sys .reverbDensity) ch vH vL s))

/-- PU.REVERB_LEVEL (40_protocol R180, 10_state R25). -/
def execPuReverbLevel (ch vH vL : Byte) (s : State K) : Host.Outcome (State K) Fault Refusal :=
  .next (answer .ok (paramWrite (.sys .reverbLevel) ch vH vL s))

/-- PU.CHORUS_RATE (40_protocol R180, 10_state R26). -/
def execPuChorusRate (ch vH vL : Byte) (s : State K) : Host.Outcome (State K) Fault Refusal :=
  .next (answer .ok (paramWrite (.sys .chorusRate) ch vH vL s))

/-- PU.CHORUS_DEPTH (40_protocol R180, 10_state R27). -/
def execPuChorusDepth (ch vH vL : Byte) (s : State K) : Host.Outcome (State K) Fault Refusal :=
  .next (answer .ok (paramWrite (.sys .chorusDepth) ch vH vL s))

/-- PU.CHORUS_FEEDBACK (40_protocol R180, 10_state R28). -/
def execPuChorusFeedback (ch vH vL : Byte) (s : State K) : Host.Outcome (State K) Fault Refusal :=
  .next (answer .ok (paramWrite (.sys .chorusFeedback) ch vH vL s))

/-- PU.CHORUS_CROSS_FEEDBACK (40_protocol R180, 10_state R29). -/
def execPuChorusCrossFeedback (ch vH vL : Byte) (s : State K) : Host.Outcome (State K) Fault Refusal :=
  .next (answer .ok (paramWrite (.sys .chorusCrossFeedback) ch vH vL s))

/-- PU.CHORUS_BASE_DELAY (40_protocol R180, 10_state R30). -/
def execPuChorusBaseDelay (ch vH vL : Byte) (s : State K) : Host.Outcome (State K) Fault Refusal :=
  .next (answer .ok (paramWrite (.sys .chorusBaseDelay) ch vH vL s))

/-- PU.CHORUS_OUTPUT (40_protocol R180, 10_state R31). -/
def execPuChorusOutput (ch vH vL : Byte) (s : State K) : Host.Outcome (State K) Fault Refusal :=
  .next (answer .ok (paramWrite (.sys .chorusOutput) ch vH vL s))

/-- PU.CHORUS_LEVEL (40_protocol R180, 10_state R32). -/
def execPuChorusLevel (ch vH vL : Byte) (s : State K) : Host.Outcome (State K) Fault Refusal :=
  .next (answer .ok (paramWrite (.sys .chorusLevel) ch vH vL s))

/-- PU.VARIATION_TYPE (40_protocol R180, 10_state R33). -/
def execPuVariationType (ch vH vL : Byte) (s : State K) : Host.Outcome (State K) Fault Refusal :=
  .next (answer .ok (paramWrite (.sys .variationType) ch vH vL s))

/-- PU.VARIATION_PARAM1 (40_protocol R180, 10_state R34). -/
def execPuVariationParam1 (ch vH vL : Byte) (s : State K) : Host.Outcome (State K) Fault Refusal :=
  .next (answer .ok (paramWrite (.sys .variationParam1) ch vH vL s))

/-- PU.VARIATION_PARAM2 (40_protocol R180, 10_state R35). -/
def execPuVariationParam2 (ch vH vL : Byte) (s : State K) : Host.Outcome (State K) Fault Refusal :=
  .next (answer .ok (paramWrite (.sys .variationParam2) ch vH vL s))

/-- PU.VARIATION_PARAM3 (40_protocol R180, 10_state R36). -/
def execPuVariationParam3 (ch vH vL : Byte) (s : State K) : Host.Outcome (State K) Fault Refusal :=
  .next (answer .ok (paramWrite (.sys .variationParam3) ch vH vL s))

/-- PU.VARIATION_PARAM4 (40_protocol R180, 10_state R37). -/
def execPuVariationParam4 (ch vH vL : Byte) (s : State K) : Host.Outcome (State K) Fault Refusal :=
  .next (answer .ok (paramWrite (.sys .variationParam4) ch vH vL s))

/-- PU.VARIATION_LEVEL (40_protocol R180, 10_state R38). -/
def execPuVariationLevel (ch vH vL : Byte) (s : State K) : Host.Outcome (State K) Fault Refusal :=
  .next (answer .ok (paramWrite (.sys .variationLevel) ch vH vL s))

/-- PU.VARIATION_BYPASS (40_protocol R180, 10_state R39). -/
def execPuVariationBypass (ch vH vL : Byte) (s : State K) : Host.Outcome (State K) Fault Refusal :=
  .next (answer .ok (paramWrite (.sys .variationBypass) ch vH vL s))

/-- PU.EQ_LOW_GAIN (40_protocol R180, 10_state R40). -/
def execPuEqLowGain (ch vH vL : Byte) (s : State K) : Host.Outcome (State K) Fault Refusal :=
  .next (answer .ok (paramWrite (.sys .eqLowGain) ch vH vL s))

/-- PU.EQ_MID_GAIN (40_protocol R180, 10_state R41). -/
def execPuEqMidGain (ch vH vL : Byte) (s : State K) : Host.Outcome (State K) Fault Refusal :=
  .next (answer .ok (paramWrite (.sys .eqMidGain) ch vH vL s))

/-- PU.EQ_HIGH_GAIN (40_protocol R180, 10_state R42). -/
def execPuEqHighGain (ch vH vL : Byte) (s : State K) : Host.Outcome (State K) Fault Refusal :=
  .next (answer .ok (paramWrite (.sys .eqHighGain) ch vH vL s))

/-- PU.EQ_MID_FREQ (40_protocol R180, 10_state R43). -/
def execPuEqMidFreq (ch vH vL : Byte) (s : State K) : Host.Outcome (State K) Fault Refusal :=
  .next (answer .ok (paramWrite (.sys .eqMidFreq) ch vH vL s))

/-- PU.EQ_MID_Q (40_protocol R180, 10_state R44). -/
def execPuEqMidQ (ch vH vL : Byte) (s : State K) : Host.Outcome (State K) Fault Refusal :=
  .next (answer .ok (paramWrite (.sys .eqMidQ) ch vH vL s))

/-- PU.ROUTING_EFFECT_ORDER (40_protocol R180, 10_state R45). -/
def execPuRoutingEffectOrder (ch vH vL : Byte) (s : State K) : Host.Outcome (State K) Fault Refusal :=
  .next (answer .ok (paramWrite (.sys .routingEffectOrder) ch vH vL s))

/-- PU.ROUTING_SEND_REVERB_TO_CHORUS (40_protocol R180, 10_state R46). -/
def execPuRoutingSendReverbToChorus (ch vH vL : Byte) (s : State K) : Host.Outcome (State K) Fault Refusal :=
  .next (answer .ok (paramWrite (.sys .routingSendReverbToChorus) ch vH vL s))

/-- PU.ROUTING_SEND_REVERB_TO_VARIATION (40_protocol R180, 10_state R47). -/
def execPuRoutingSendReverbToVariation (ch vH vL : Byte) (s : State K) : Host.Outcome (State K) Fault Refusal :=
  .next (answer .ok (paramWrite (.sys .routingSendReverbToVariation) ch vH vL s))

/-- PU.ROUTING_SEND_CHORUS_TO_REVERB (40_protocol R180, 10_state R48). -/
def execPuRoutingSendChorusToReverb (ch vH vL : Byte) (s : State K) : Host.Outcome (State K) Fault Refusal :=
  .next (answer .ok (paramWrite (.sys .routingSendChorusToReverb) ch vH vL s))

/-- PU.ROUTING_SEND_CHORUS_TO_VARIATION (40_protocol R180, 10_state R49). -/
def execPuRoutingSendChorusToVariation (ch vH vL : Byte) (s : State K) : Host.Outcome (State K) Fault Refusal :=
  .next (answer .ok (paramWrite (.sys .routingSendChorusToVariation) ch vH vL s))

/-- PU.ROUTING_SEND_VARIATION_TO_REVERB (40_protocol R180, 10_state R50). -/
def execPuRoutingSendVariationToReverb (ch vH vL : Byte) (s : State K) : Host.Outcome (State K) Fault Refusal :=
  .next (answer .ok (paramWrite (.sys .routingSendVariationToReverb) ch vH vL s))

/-- PU.ROUTING_SEND_VARIATION_TO_CHORUS (40_protocol R180, 10_state R51). -/
def execPuRoutingSendVariationToChorus (ch vH vL : Byte) (s : State K) : Host.Outcome (State K) Fault Refusal :=
  .next (answer .ok (paramWrite (.sys .routingSendVariationToChorus) ch vH vL s))

/-- PU.GLOBAL_MASTER_LEVEL (40_protocol R180, 10_state R52). -/
def execPuGlobalMasterLevel (ch vH vL : Byte) (s : State K) : Host.Outcome (State K) Fault Refusal :=
  .next (answer .ok (paramWrite (.sys .globalMasterLevel) ch vH vL s))

/-- PU.GLOBAL_BYPASS (40_protocol R180, 10_state R53). -/
def execPuGlobalBypass (ch vH vL : Byte) (s : State K) : Host.Outcome (State K) Fault Refusal :=
  .next (answer .ok (paramWrite (.sys .globalBypass) ch vH vL s))

/-- PU.GLOBAL_CURRENT_CHANNEL (40_protocol R180, 10_state R54). -/
def execPuGlobalCurrentChannel (ch vH vL : Byte) (s : State K) : Host.Outcome (State K) Fault Refusal :=
  .next (answer .ok (paramWrite (.sys .globalCurrentChannel) ch vH vL s))

/-- PU.CH_INS_TYPE (40_protocol R180, 10_state R55). -/
def execPuChInsType (ch vH vL : Byte) (s : State K) : Host.Outcome (State K) Fault Refusal :=
  .next (answer .ok (paramWrite (.ch .insType) ch vH vL s))

/-- PU.CH_INS_PARAM1 (40_protocol R180, 10_state R56). -/
def execPuChInsParam1 (ch vH vL : Byte) (s : State K) : Host.Outcome (State K) Fault Refusal :=
  .next (answer .ok (paramWrite (.ch .insParam1) ch vH vL s))

/-- PU.CH_INS_PARAM2 (40_protocol R180, 10_state R57). -/
def execPuChInsParam2 (ch vH vL : Byte) (s : State K) : Host.Outcome (State K) Fault Refusal :=
  .next (answer .ok (paramWrite (.ch .insParam2) ch vH vL s))

/-- PU.CH_INS_PARAM3 (40_protocol R180, 10_state R58). -/
def execPuChInsParam3 (ch vH vL : Byte) (s : State K) : Host.Outcome (State K) Fault Refusal :=
  .next (answer .ok (paramWrite (.ch .insParam3) ch vH vL s))

/-- PU.CH_INS_PARAM4 (40_protocol R180, 10_state R59). -/
def execPuChInsParam4 (ch vH vL : Byte) (s : State K) : Host.Outcome (State K) Fault Refusal :=
  .next (answer .ok (paramWrite (.ch .insParam4) ch vH vL s))

/-- PU.CH_INS_LEVEL (40_protocol R180, 10_state R60). -/
def execPuChInsLevel (ch vH vL : Byte) (s : State K) : Host.Outcome (State K) Fault Refusal :=
  .next (answer .ok (paramWrite (.ch .insLevel) ch vH vL s))

/-- PU.CH_INS_BYPASS (40_protocol R180, 10_state R61). -/
def execPuChInsBypass (ch vH vL : Byte) (s : State K) : Host.Outcome (State K) Fault Refusal :=
  .next (answer .ok (paramWrite (.ch .insBypass) ch vH vL s))

/-- PU.CH_REVERB_SEND (40_protocol R180, 10_state R62). -/
def execPuChReverbSend (ch vH vL : Byte) (s : State K) : Host.Outcome (State K) Fault Refusal :=
  .next (answer .ok (paramWrite (.ch .reverbSend) ch vH vL s))

/-- PU.CH_CHORUS_SEND (40_protocol R180, 10_state R63). -/
def execPuChChorusSend (ch vH vL : Byte) (s : State K) : Host.Outcome (State K) Fault Refusal :=
  .next (answer .ok (paramWrite (.ch .chorusSend) ch vH vL s))

/-- PU.CH_VARIATION_SEND (40_protocol R180, 10_state R64). -/
def execPuChVariationSend (ch vH vL : Byte) (s : State K) : Host.Outcome (State K) Fault Refusal :=
  .next (answer .ok (paramWrite (.ch .variationSend) ch vH vL s))

/-- PU.CH_INSERTION_SEND (40_protocol R180, 10_state R65). -/
def execPuChInsertionSend (ch vH vL : Byte) (s : State K) : Host.Outcome (State K) Fault Refusal :=
  .next (answer .ok (paramWrite (.ch .insertionSend) ch vH vL s))

/-- PU.CH_PAN (40_protocol R180, 10_state R66). -/
def execPuChPan (ch vH vL : Byte) (s : State K) : Host.Outcome (State K) Fault Refusal :=
  .next (answer .ok (paramWrite (.ch .pan) ch vH vL s))

/-- PU.CH_VOLUME (40_protocol R180, 10_state R67). -/
def execPuChVolume (ch vH vL : Byte) (s : State K) : Host.Outcome (State K) Fault Refusal :=
  .next (answer .ok (paramWrite (.ch .volume) ch vH vL s))

/-- PU.CH_MUTE (40_protocol R180, 10_state R68). -/
def execPuChMute (ch vH vL : Byte) (s : State K) : Host.Outcome (State K) Fault Refusal :=
  .next (answer .ok (paramWrite (.ch .mute) ch vH vL s))

/-- PU.CH_SOLO (40_protocol R180, 10_state R69). -/
def execPuChSolo (ch vH vL : Byte) (s : State K) : Host.Outcome (State K) Fault Refusal :=
  .next (answer .ok (paramWrite (.ch .solo) ch vH vL s))

end Sys2Proof.Machine
end

