-- ==== Sys2Proof/Machine/SnapshotOps.lean ====
section
/-! DEFINITION. GET, SET and RST (40_protocol R195 to R197). -/

namespace Sys2Proof.Machine

variable {K : Type} [Zero K] [One K] [Add K] [Sub K] [Mul K] [Div K] [Neg K] [NatCast K] [IntCast K] [Max K] [Min K]
  [LT K] [DecidableLT K] [DecidableEq K]

/-- `GET()`: a copy of P and CH; the runtime state is not part of it (40_protocol R195). -/
def snapshotOf (s : State K) : Snapshot K := ⟨s.p, s.ch⟩

/-- `Legal_f` on every field of a snapshot (40_protocol R196). -/
def legalSnapshot (snap : Snapshot K) : Snapshot K :=
  ⟨legalParams snap.p, Vector.ofFn fun c => legalChannel snap.ch[c]⟩

/-- Store a snapshot in P and CH; S is unchanged (40_protocol R196). -/
def storeSnapshot (snap : Snapshot K) (s : State K) : State K := { s with p := snap.p, ch := snap.ch }

/-- `P, CH <- reset values; S <- reset values` (40_protocol R197). The port keeps the commands not yet performed. -/
def resetBlock (cfg : Config K) (s : State K) : State K :=
  { storeSnapshot resetSnapshot s with rt := resetRuntime cfg }

/-- GET (40_protocol R195). -/
def execGet (s : State K) : Host.Outcome (State K) Fault Refusal := .next (answer (.snapshot (snapshotOf s)) s)

/-- SET (40_protocol R196): out-of-range values are clamped, never refused. -/
def execSet (snap : Snapshot K) (s : State K) : Host.Outcome (State K) Fault Refusal :=
  .next (answer .ok (storeSnapshot (legalSnapshot snap) s))

/-- RST in a block with the given parameters, which it does not change (40_protocol R197, 70_reset_and_hazards R402). -/
def execRstFor (cfg : Config K) (s : State K) : Host.Outcome (State K) Fault Refusal := .next (answer .ok (resetBlock cfg s))

/-- RST (40_protocol R197). -/
def execRst (s : State) : Host.Outcome State Fault Refusal := execRstFor Config.machine s

end Sys2Proof.Machine
end

