-- ==== Sys2Proof/Machine/SysEx.lean ====
section
/-! DEFINITION. The SX family: system-exclusive decode (40_protocol R186 to R190). -/

namespace Sys2Proof.Machine

variable {K : Type} [Zero K] [One K] [Add K] [Sub K] [Mul K] [Div K] [Neg K] [NatCast K] [IntCast K] [Max K] [Min K]
  [LT K] [DecidableLT K] [DecidableEq K]

/-! ## Bulk dumps -/

/-- One recognised bulk record: which field, of which bank, takes which 14-bit value. -/
structure FieldWrite where
  field : ParamField
  /-- The bank of a channel field; not used for a system field. -/
  bank : Nat
  value : Nat
deriving DecidableEq, Repr

/-- The system record `[aH, aL, vH, vL]` at the head of the bytes, if it is recognised (40_protocol R188). -/
def systemRecord : List Byte → Option FieldWrite
  | aH :: aL :: vH :: vL :: _ =>
    match descriptor aH aL with
    | some (.sys f) => if isDataByte vH && isDataByte vL then some ⟨.sys f, 0, value14 vH vL⟩ else none
    | some (.ch _) => none
    | none => none
  | _ => none

/-- The per-channel record `[c, aH, aL, vH, vL]` at the head of the bytes, if it is recognised (40_protocol R189). -/
def channelRecord : List Byte → Option FieldWrite
  | c :: aH :: aL :: vH :: vL :: _ =>
    match descriptor aH aL with
    | some (.ch f) =>
      if decide (c.toNat ≤ 15) && isDataByte vH && isDataByte vL then some ⟨.ch f, c.toNat, value14 vH vL⟩ else none
    | some (.sys _) => none
    | none => none
  | _ => none

/-- The record scanner (40_protocol R190): the recognised records in stream order. At an unrecognised position it moves on
by one byte; after a record of n bytes it moves on by n. `skip` counts the bytes of the last record still to pass. -/
def scanRecords (record : List Byte → Option FieldWrite) (n : Nat) : Nat → List Byte → List FieldWrite
  | _, [] => []
  | skip + 1, _ :: rest => scanRecords record n skip rest
  | 0, b :: rest =>
    match record (b :: rest) with
    | some w => w :: scanRecords record n (n - 1) rest
    | none => scanRecords record n 0 rest

/-- The recognised records of a system dump (40_protocol R188). -/
def systemWrites (records : List Byte) : List FieldWrite := scanRecords systemRecord 4 0 records

/-- The recognised records of a per-channel dump (40_protocol R189). -/
def channelWrites (records : List Byte) : List FieldWrite := scanRecords channelRecord 5 0 records

/-- Apply one record: `WriteField(Desc, c, Desc.decode(v))`. -/
def applyWrite (s : State K) (w : FieldWrite) : State K :=
  writeField w.field w.bank (decodeValue (fieldTransform w.field) w.value) s

/-- Apply records in stream order: a later record for the same field wins (40_protocol R190). -/
def applyWrites (ws : List FieldWrite) (s : State K) : State K := ws.foldl applyWrite s

/-! ## The message -/

/-- `SxParamChange(body)` (40_protocol R187): a PU with the channel absent and valueLow = 0. -/
def sysExParamChange (aH aL value : Byte) (s : State K) : State K := parameterUpdate 0xFF aH aL value 0x00 s

/-- `SX(vendorBytes, body)` without its result (40_protocol R186). -/
def sysEx (cfg : Config K) (vendor body : List Byte) (s : State K) : State K :=
  if vendor = [cfg.vendorId] then
    match body with
    | _ :: sub :: rest =>
      if sub = cfg.pcSubstatus then
        match rest with
        | aH :: aL :: value :: _ => sysExParamChange aH aL value s
        | _ => s
      else if sub = 0x00 then
        match rest with
        | kind :: records =>
          if kind = 0x03 then applyWrites (systemWrites records) s
          else if kind = 0x04 then applyWrites (channelWrites records) s
          else s
        | [] => s
      else s
    | _ => s
  else s

/-! ## Meanings -/

/-- SX in a block with the given parameters (40_protocol R186). -/
def execSxFor (cfg : Config K) (vendor body : List Byte) (s : State K) : Host.Outcome (State K) Fault Refusal :=
  .next (answer .ok (sysEx cfg vendor body s))

/-- SX (40_protocol R186). -/
def execSx (vendor body : List Byte) (s : State) : Host.Outcome State Fault Refusal :=
  execSxFor Config.machine vendor body s

/-- SX.PARAM_CHANGE (40_protocol R187): the device id and the bytes after index 4 are not looked at. -/
def execSxParamChange (aH aL value : Byte) (s : State K) : Host.Outcome (State K) Fault Refusal :=
  .next (answer .ok (sysExParamChange aH aL value s))

/-- SX.BULK_SYSTEM (40_protocol R188). -/
def execSxBulkSystem (records : List Byte) (s : State K) : Host.Outcome (State K) Fault Refusal :=
  .next (answer .ok (applyWrites (systemWrites records) s))

/-- SX.BULK_CHANNEL (40_protocol R189). -/
def execSxBulkChannel (records : List Byte) (s : State K) : Host.Outcome (State K) Fault Refusal :=
  .next (answer .ok (applyWrites (channelWrites records) s))

end Sys2Proof.Machine
end

