-- ==== Sys2Proof/Machine/Dispatch.lean ====
section
/-! DEFINITION. The meaning of each instruction, one arm per constructor. -/

namespace Sys2Proof.Machine

/-- The meaning of an instruction: the command's effect and its result. -/
def exec (i : Instr) (s : State) : Host.Outcome State Fault Refusal :=
  match i with
  | .pu ch aH aL vH vL => Sys2Proof.Machine.execPu ch aH aL vH vL s
  | .sx vendor body => Sys2Proof.Machine.execSx vendor body s
  | .sxParamChange _ aH aL value _ => Sys2Proof.Machine.execSxParamChange aH aL value s
  | .sxBulkSystem _ records => Sys2Proof.Machine.execSxBulkSystem records s
  | .sxBulkChannel _ records => Sys2Proof.Machine.execSxBulkChannel records s
  | .encSys => Sys2Proof.Machine.execEncSys s
  | .encChan => Sys2Proof.Machine.execEncChan s
  | .proc frames levels => Sys2Proof.Machine.execProc frames levels s
  | .get => Sys2Proof.Machine.execGet s
  | .set snap => Sys2Proof.Machine.execSet snap s
  | .rst => Sys2Proof.Machine.execRst s
  | .puReverbTime ch vH vL => Sys2Proof.Machine.execPuReverbTime ch vH vL s
  | .puReverbPreDelay ch vH vL => Sys2Proof.Machine.execPuReverbPreDelay ch vH vL s
  | .puReverbHfDamping ch vH vL => Sys2Proof.Machine.execPuReverbHfDamping ch vH vL s
  | .puReverbDensity ch vH vL => Sys2Proof.Machine.execPuReverbDensity ch vH vL s
  | .puReverbLevel ch vH vL => Sys2Proof.Machine.execPuReverbLevel ch vH vL s
  | .puChorusRate ch vH vL => Sys2Proof.Machine.execPuChorusRate ch vH vL s
  | .puChorusDepth ch vH vL => Sys2Proof.Machine.execPuChorusDepth ch vH vL s
  | .puChorusFeedback ch vH vL => Sys2Proof.Machine.execPuChorusFeedback ch vH vL s
  | .puChorusCrossFeedback ch vH vL => Sys2Proof.Machine.execPuChorusCrossFeedback ch vH vL s
  | .puChorusBaseDelay ch vH vL => Sys2Proof.Machine.execPuChorusBaseDelay ch vH vL s
  | .puChorusOutput ch vH vL => Sys2Proof.Machine.execPuChorusOutput ch vH vL s
  | .puChorusLevel ch vH vL => Sys2Proof.Machine.execPuChorusLevel ch vH vL s
  | .puVariationType ch vH vL => Sys2Proof.Machine.execPuVariationType ch vH vL s
  | .puVariationParam1 ch vH vL => Sys2Proof.Machine.execPuVariationParam1 ch vH vL s
  | .puVariationParam2 ch vH vL => Sys2Proof.Machine.execPuVariationParam2 ch vH vL s
  | .puVariationParam3 ch vH vL => Sys2Proof.Machine.execPuVariationParam3 ch vH vL s
  | .puVariationParam4 ch vH vL => Sys2Proof.Machine.execPuVariationParam4 ch vH vL s
  | .puVariationLevel ch vH vL => Sys2Proof.Machine.execPuVariationLevel ch vH vL s
  | .puVariationBypass ch vH vL => Sys2Proof.Machine.execPuVariationBypass ch vH vL s
  | .puEqLowGain ch vH vL => Sys2Proof.Machine.execPuEqLowGain ch vH vL s
  | .puEqMidGain ch vH vL => Sys2Proof.Machine.execPuEqMidGain ch vH vL s
  | .puEqHighGain ch vH vL => Sys2Proof.Machine.execPuEqHighGain ch vH vL s
  | .puEqMidFreq ch vH vL => Sys2Proof.Machine.execPuEqMidFreq ch vH vL s
  | .puEqMidQ ch vH vL => Sys2Proof.Machine.execPuEqMidQ ch vH vL s
  | .puRoutingEffectOrder ch vH vL => Sys2Proof.Machine.execPuRoutingEffectOrder ch vH vL s
  | .puRoutingSendReverbToChorus ch vH vL => Sys2Proof.Machine.execPuRoutingSendReverbToChorus ch vH vL s
  | .puRoutingSendReverbToVariation ch vH vL => Sys2Proof.Machine.execPuRoutingSendReverbToVariation ch vH vL s
  | .puRoutingSendChorusToReverb ch vH vL => Sys2Proof.Machine.execPuRoutingSendChorusToReverb ch vH vL s
  | .puRoutingSendChorusToVariation ch vH vL => Sys2Proof.Machine.execPuRoutingSendChorusToVariation ch vH vL s
  | .puRoutingSendVariationToReverb ch vH vL => Sys2Proof.Machine.execPuRoutingSendVariationToReverb ch vH vL s
  | .puRoutingSendVariationToChorus ch vH vL => Sys2Proof.Machine.execPuRoutingSendVariationToChorus ch vH vL s
  | .puGlobalMasterLevel ch vH vL => Sys2Proof.Machine.execPuGlobalMasterLevel ch vH vL s
  | .puGlobalBypass ch vH vL => Sys2Proof.Machine.execPuGlobalBypass ch vH vL s
  | .puGlobalCurrentChannel ch vH vL => Sys2Proof.Machine.execPuGlobalCurrentChannel ch vH vL s
  | .puChInsType ch vH vL => Sys2Proof.Machine.execPuChInsType ch vH vL s
  | .puChInsParam1 ch vH vL => Sys2Proof.Machine.execPuChInsParam1 ch vH vL s
  | .puChInsParam2 ch vH vL => Sys2Proof.Machine.execPuChInsParam2 ch vH vL s
  | .puChInsParam3 ch vH vL => Sys2Proof.Machine.execPuChInsParam3 ch vH vL s
  | .puChInsParam4 ch vH vL => Sys2Proof.Machine.execPuChInsParam4 ch vH vL s
  | .puChInsLevel ch vH vL => Sys2Proof.Machine.execPuChInsLevel ch vH vL s
  | .puChInsBypass ch vH vL => Sys2Proof.Machine.execPuChInsBypass ch vH vL s
  | .puChReverbSend ch vH vL => Sys2Proof.Machine.execPuChReverbSend ch vH vL s
  | .puChChorusSend ch vH vL => Sys2Proof.Machine.execPuChChorusSend ch vH vL s
  | .puChVariationSend ch vH vL => Sys2Proof.Machine.execPuChVariationSend ch vH vL s
  | .puChInsertionSend ch vH vL => Sys2Proof.Machine.execPuChInsertionSend ch vH vL s
  | .puChPan ch vH vL => Sys2Proof.Machine.execPuChPan ch vH vL s
  | .puChVolume ch vH vL => Sys2Proof.Machine.execPuChVolume ch vH vL s
  | .puChMute ch vH vL => Sys2Proof.Machine.execPuChMute ch vH vL s
  | .puChSolo ch vH vL => Sys2Proof.Machine.execPuChSolo ch vH vL s

end Sys2Proof.Machine
end

