-- ==== Sys2Proof/Machine/Step.lean ====
section
/-! DEFINITION. One step: the engine takes the next command record off the port and performs it (30_encoding R130,
00_scope R4). -/

namespace Sys2Proof.Machine

variable {K : Type}

/-- What a step does with what the decoder says. A whole record is taken off the port and performed. A refused record is taken
off and answers REFUSED (30_encoding R151). With no whole record the engine waits: nothing changes (60_exceptions R393,
notes/assumptions/8.md). -/
def performRecord (perform : Instr K → State K → Host.Outcome (State K) Fault Refusal) (d : Decoded K) (s : State K) :
    Host.Outcome (State K) Fault Refusal :=
  match d with
  | .instr i rest => perform i { s with port := rest }
  | .refused rest => .next (answer .refused { s with port := rest })
  | .incomplete => .next s
  | .wrongItem => .fault .wrongItem

/-- One step of the machine. -/
def step (s : State) : Host.Outcome State Fault Refusal := performRecord exec (decode s.port) s

/-- The state with the record of a word of spec/opcode_table.json on the port, and nothing else on it, so that the next
step takes and performs exactly it (notes/assumptions/11.md). -/
def State.withFetchWord (s : State) (nbits w : Nat) : State := { s with port := tableItems nbits w }

end Sys2Proof.Machine
end

