-- ==== Sys2Proof/Machine/Block.lean ====
section
/-! DEFINITION. The block under any model parameters (00_scope R7: "The model takes each as an argument") and over any
numbers with any arithmetic (00_scope R9, 93_implementation_defined U7): its construction, its commands and its step. `exec`,
`step` and `State.reset` are the block over `Scalar` under the third column of R7; the block over the reals is in
Machine/Reference.lean, the one over binary64 numbers in Machine/Binary64.lean. -/

namespace Sys2Proof.Machine

variable {K : Type} [Zero K] [One K] [Add K] [Sub K] [Mul K] [Div K] [Neg K] [NatCast K] [IntCast K] [Max K] [Min K]
  [LT K] [DecidableLT K] [DecidableEq K]

/-- Construction (70_reset_and_hazards R400, R403): parameters that do not meet the constraints of 00_scope R7 build no
block; a block begins in the state RST leaves. -/
def construct (cfg : Config K) : Option (State K) := if cfg.valid then some (State.resetWith cfg) else none

/-- The meaning of an instruction in a block with the given parameters. Only SX, ENC, PROC and RST read one. -/
def execFor (cfg : Config K) (i : Instr K) (s : State K) : Host.Outcome (State K) Fault Refusal :=
  match i with
  | .pu ch aH aL vH vL => execPu ch aH aL vH vL s
  | .sx vendor body => execSxFor cfg vendor body s
  | .sxParamChange _ aH aL value _ => execSxParamChange aH aL value s
  | .sxBulkSystem _ records => execSxBulkSystem records s
  | .sxBulkChannel _ records => execSxBulkChannel records s
  | .encSys => execEncSysFor cfg s
  | .encChan => execEncChanFor cfg s
  | .proc frames levels => execProcFor cfg frames levels s
  | .get => execGet s
  | .set snap => execSet snap s
  | .rst => execRstFor cfg s
  | .puReverbTime ch vH vL => execPuReverbTime ch vH vL s
  | .puReverbPreDelay ch vH vL => execPuReverbPreDelay ch vH vL s
  | .puReverbHfDamping ch vH vL => execPuReverbHfDamping ch vH vL s
  | .puReverbDensity ch vH vL => execPuReverbDensity ch vH vL s
  | .puReverbLevel ch vH vL => execPuReverbLevel ch vH vL s
  | .puChorusRate ch vH vL => execPuChorusRate ch vH vL s
  | .puChorusDepth ch vH vL => execPuChorusDepth ch vH vL s
  | .puChorusFeedback ch vH vL => execPuChorusFeedback ch vH vL s
  | .puChorusCrossFeedback ch vH vL => execPuChorusCrossFeedback ch vH vL s
  | .puChorusBaseDelay ch vH vL => execPuChorusBaseDelay ch vH vL s
  | .puChorusOutput ch vH vL => execPuChorusOutput ch vH vL s
  | .puChorusLevel ch vH vL => execPuChorusLevel ch vH vL s
  | .puVariationType ch vH vL => execPuVariationType ch vH vL s
  | .puVariationParam1 ch vH vL => execPuVariationParam1 ch vH vL s
  | .puVariationParam2 ch vH vL => execPuVariationParam2 ch vH vL s
  | .puVariationParam3 ch vH vL => execPuVariationParam3 ch vH vL s
  | .puVariationParam4 ch vH vL => execPuVariationParam4 ch vH vL s
  | .puVariationLevel ch vH vL => execPuVariationLevel ch vH vL s
  | .puVariationBypass ch vH vL => execPuVariationBypass ch vH vL s
  | .puEqLowGain ch vH vL => execPuEqLowGain ch vH vL s
  | .puEqMidGain ch vH vL => execPuEqMidGain ch vH vL s
  | .puEqHighGain ch vH vL => execPuEqHighGain ch vH vL s
  | .puEqMidFreq ch vH vL => execPuEqMidFreq ch vH vL s
  | .puEqMidQ ch vH vL => execPuEqMidQ ch vH vL s
  | .puRoutingEffectOrder ch vH vL => execPuRoutingEffectOrder ch vH vL s
  | .puRoutingSendReverbToChorus ch vH vL => execPuRoutingSendReverbToChorus ch vH vL s
  | .puRoutingSendReverbToVariation ch vH vL => execPuRoutingSendReverbToVariation ch vH vL s
  | .puRoutingSendChorusToReverb ch vH vL => execPuRoutingSendChorusToReverb ch vH vL s
  | .puRoutingSendChorusToVariation ch vH vL => execPuRoutingSendChorusToVariation ch vH vL s
  | .puRoutingSendVariationToReverb ch vH vL => execPuRoutingSendVariationToReverb ch vH vL s
  | .puRoutingSendVariationToChorus ch vH vL => execPuRoutingSendVariationToChorus ch vH vL s
  | .puGlobalMasterLevel ch vH vL => execPuGlobalMasterLevel ch vH vL s
  | .puGlobalBypass ch vH vL => execPuGlobalBypass ch vH vL s
  | .puGlobalCurrentChannel ch vH vL => execPuGlobalCurrentChannel ch vH vL s
  | .puChInsType ch vH vL => execPuChInsType ch vH vL s
  | .puChInsParam1 ch vH vL => execPuChInsParam1 ch vH vL s
  | .puChInsParam2 ch vH vL => execPuChInsParam2 ch vH vL s
  | .puChInsParam3 ch vH vL => execPuChInsParam3 ch vH vL s
  | .puChInsParam4 ch vH vL => execPuChInsParam4 ch vH vL s
  | .puChInsLevel ch vH vL => execPuChInsLevel ch vH vL s
  | .puChInsBypass ch vH vL => execPuChInsBypass ch vH vL s
  | .puChReverbSend ch vH vL => execPuChReverbSend ch vH vL s
  | .puChChorusSend ch vH vL => execPuChChorusSend ch vH vL s
  | .puChVariationSend ch vH vL => execPuChVariationSend ch vH vL s
  | .puChInsertionSend ch vH vL => execPuChInsertionSend ch vH vL s
  | .puChPan ch vH vL => execPuChPan ch vH vL s
  | .puChVolume ch vH vL => execPuChVolume ch vH vL s
  | .puChMute ch vH vL => execPuChMute ch vH vL s
  | .puChSolo ch vH vL => execPuChSolo ch vH vL s

/-- One step of a block with the given parameters (00_scope R4, 30_encoding R130), as `step` takes it. -/
def stepFor (cfg : Config K) (s : State K) : Host.Outcome (State K) Fault Refusal :=
  performRecord (execFor cfg) (decodeFor cfg s.port) s

end Sys2Proof.Machine
end

