-- ==== Sys2Proof/Machine/Binary64.lean ====
section
/-! DEFINITION. The binary64 block (00_scope R7: NUMERICS = "binary64 (implementation)"; R9; 93_implementation_defined U6, U7):
IEEE-754 binary64 numbers, their arithmetic, and the block over them. The spec names the format and states none of its rules;
they are IEEE-754's, with round to nearest, ties to even. PRESUMED, notes/assumptions/21.md. -/

namespace Sys2Proof

/-! ## The format -/

/-- A binary64 datum: every one of the 2^64 is a value of this type, −0, the infinities and the NaNs among them. -/
structure Binary64 where
  /-- The sign bit: true is negative. -/
  sign : Bool
  /-- The biased exponent: 0 for zero and subnormal numbers, 2047 for an infinity or a NaN. -/
  exponent : BitVec 11
  /-- The trailing significand. -/
  fraction : BitVec 52
deriving DecidableEq, Repr, Inhabited

/-- What a datum stands for. -/
inductive Binary64Kind where
  | finite (x : Rat)
  | infinite
  | nan
deriving DecidableEq, Repr

/-- The significand of a finite datum, as an integer below 2^53. -/
def Binary64.significand (a : Binary64) : Nat := (if a.exponent = 0 then 0 else 2 ^ 52) + a.fraction.toNat

/-- The magnitude of a finite datum: its significand times 2^(max(1, exponent) − 1075). -/
def Binary64.magnitude (a : Binary64) : Rat :=
  let e := max 1 a.exponent.toNat
  if 1075 ≤ e then ((a.significand * 2 ^ (e - 1075) : Nat) : Rat) else mkRat a.significand (2 ^ (1075 - e))

/-- The kind of a datum, and its value if it is finite. -/
def Binary64.kind (a : Binary64) : Binary64Kind :=
  if a.exponent = 2047 then (if a.fraction = 0 then .infinite else .nan)
  else .finite (if a.sign then -a.magnitude else a.magnitude)

/-- A zero with a sign. -/
def Binary64.zeroOf (sign : Bool) : Binary64 := ⟨sign, 0, 0⟩

/-- An infinity. -/
def Binary64.infinityOf (sign : Bool) : Binary64 := ⟨sign, 2047, 0⟩

/-- The NaN that an operation answers. -/
def Binary64.nan : Binary64 := ⟨false, 2047, BitVec.ofNat 52 (2 ^ 51)⟩

/-! ## Rounding -/

/-- The integer nearest to n/d, the even one at a tie. -/
def roundQuotient (n d : Nat) : Nat :=
  if 2 * (n % d) < d then n / d
  else if d < 2 * (n % d) then n / d + 1
  else if n / d % 2 = 0 then n / d
  else n / d + 1

/-- n/d ≥ 2^e. -/
def reachesTwoPow (n d : Nat) (e : Int) : Bool :=
  if 0 ≤ e then decide (d * 2 ^ e.toNat ≤ n) else decide (d ≤ n * 2 ^ (-e).toNat)

/-- The e with 2^e ≤ n/d < 2^(e+1), for positive n and d. -/
def quotientLog2 (n d : Nat) : Int :=
  let e : Int := (n.log2 : Int) - d.log2
  if reachesTwoPow n d e then e else e - 1

/-- The exponent and fraction bits, as one number, of the datum nearest to n/d: the last place is 2^ulp, at least that of a
subnormal number; from 2^1024 on it is the infinity. -/
def roundMagnitude (n d : Nat) : Nat :=
  let ulp := max (quotientLog2 n d - 52) (-1074)
  let m := if 0 ≤ ulp then roundQuotient n (d * 2 ^ ulp.toNat) else roundQuotient (n * 2 ^ (-ulp).toNat) d
  min ((ulp + 1074).toNat * 2 ^ 52 + m) (2047 * 2 ^ 52)

/-- The datum nearest to a rational; an exact zero takes the given sign. -/
def Binary64.round (zeroSign : Bool) (x : Rat) : Binary64 :=
  if x = 0 then .zeroOf zeroSign
  else
    let code := roundMagnitude x.num.natAbs x.den
    ⟨decide (x < 0), BitVec.ofNat 11 (code / 2 ^ 52), BitVec.ofNat 52 code⟩

/-! ## Arithmetic: the exact result, rounded once -/

/-- −a. -/
def Binary64.neg (a : Binary64) : Binary64 := { a with sign := !a.sign }

/-- a + b. An exact zero is −0 only where both operands are negative. -/
def Binary64.add (a b : Binary64) : Binary64 :=
  match a.kind, b.kind with
  | .finite x, .finite y => .round (a.sign && b.sign) (x + y)
  | .infinite, .infinite => if a.sign = b.sign then a else .nan
  | .infinite, .finite _ => a
  | .finite _, .infinite => b
  | .nan, _ => .nan
  | _, .nan => .nan

/-- a − b. -/
def Binary64.sub (a b : Binary64) : Binary64 := a.add b.neg

/-- a · b. -/
def Binary64.mul (a b : Binary64) : Binary64 :=
  let sign := xor a.sign b.sign
  match a.kind, b.kind with
  | .finite x, .finite y => .round sign (x * y)
  | .infinite, .infinite => .infinityOf sign
  | .infinite, .finite y => if y = 0 then .nan else .infinityOf sign
  | .finite x, .infinite => if x = 0 then .nan else .infinityOf sign
  | .nan, _ => .nan
  | _, .nan => .nan

/-- a / b; a quotient by zero is an infinity, and 0/0 a NaN. -/
def Binary64.div (a b : Binary64) : Binary64 :=
  let sign := xor a.sign b.sign
  match a.kind, b.kind with
  | .finite x, .finite y => if y = 0 then (if x = 0 then .nan else .infinityOf sign) else .round sign (x / y)
  | .infinite, .infinite => .nan
  | .infinite, .finite _ => .infinityOf sign
  | .finite _, .infinite => .zeroOf sign
  | .nan, _ => .nan
  | _, .nan => .nan

/-- a < b: false where one of them is a NaN; −0 and +0 are equal. -/
def Binary64.below (a b : Binary64) : Bool :=
  match a.kind, b.kind with
  | .finite x, .finite y => decide (x < y)
  | .infinite, .infinite => a.sign && !b.sign
  | .infinite, .finite _ => a.sign
  | .finite _, .infinite => !b.sign
  | .nan, _ => false
  | _, .nan => false

/-- min(a, b): b where it is below a, else a. -/
def Binary64.min (a b : Binary64) : Binary64 := if b.below a then b else a

/-- max(a, b): b where a is below it, else a. -/
def Binary64.max (a b : Binary64) : Binary64 := if a.below b then b else a

/-- An integer in the format, rounded. -/
def Binary64.ofInt (n : Int) : Binary64 := .round false n

/-- floor(a); of an infinity or a NaN it is `other`. -/
def Binary64.floor (other : Binary64 → Int) (a : Binary64) : Int :=
  match a.kind with
  | .finite x => ⌊x⌋
  | .infinite => other a
  | .nan => other a

/-! ## The block -/

/-- A definition of the block, at binary64 numbers under this arithmetic. -/
abbrev Binary64.arithmetic {α : Sort*}
    (f : [Zero Binary64] → [One Binary64] → [Add Binary64] → [Sub Binary64] → [Mul Binary64] → [Div Binary64] →
      [Neg Binary64] → [NatCast Binary64] → [IntCast Binary64] → [Max Binary64] → [Min Binary64] → [LT Binary64] →
      [DecidableLT Binary64] → α) : α :=
  @f ⟨.zeroOf false⟩ ⟨.ofInt 1⟩ ⟨.add⟩ ⟨.sub⟩ ⟨.mul⟩ ⟨.div⟩ ⟨.neg⟩ ⟨fun n => .ofInt n⟩ ⟨.ofInt⟩ ⟨.max⟩ ⟨.min⟩
    ⟨fun a b => a.below b = true⟩ (fun a b => inferInstanceAs (Decidable (a.below b = true)))

/-- NUMERICS = binary64: any total functions (00_scope R9; 93_implementation_defined U7), and the floor of the finite numbers;
what the floor of an infinity or a NaN is stays open (U6, "any value"). A quotient by zero is IEEE-754's, an infinity or a NaN,
whatever `f` has for it. Angles are in radians, and π is the number of the format nearest to it. -/
def Numerics.binary64 (f : Functions Binary64) (floorOther : Binary64 → Int) : Numerics Binary64 :=
  { f with floor := Binary64.floor floorOther, divByZero := fun x => x.div (.zeroOf false),
           pi := .round false (mkRat 884279719003555 (2 ^ 48)) }

/-- The third column of 00_scope R7 with NUMERICS binary64. -/
def Config.binary64 (f : Functions Binary64) (floorOther : Binary64 → Int) (ext : ExtProcs Binary64) : Config Binary64 :=
  Binary64.arithmetic (Config.r7 (Numerics.binary64 f floorOther) ext)

namespace Machine

/-- The meaning of an instruction in a binary64 block with the given parameters. -/
def binary64Exec (cfg : Config Binary64) (i : Instr Binary64) (s : State Binary64) :
    Host.Outcome (State Binary64) Fault Refusal := Binary64.arithmetic (execFor cfg i s)

/-- One step of a binary64 block with the given parameters. -/
def binary64Step (cfg : Config Binary64) (s : State Binary64) : Host.Outcome (State Binary64) Fault Refusal :=
  Binary64.arithmetic (stepFor cfg s)

/-- The construction of a binary64 block: parameters that do not meet the constraints of 00_scope R7 build none. -/
def binary64Construct (cfg : Config Binary64) : Option (State Binary64) := Binary64.arithmetic (construct cfg)

end Machine

end Sys2Proof
end

