-- ==== Sys2Proof/Machine/Reference.lean ====
section
/-! DEFINITION. The reference block (00_scope R9): the block over the real numbers, in exact real arithmetic, with the real
functions as its NUMERICS configuration and its angles in radians. It is what the block over any numbers is at K = ℝ; it cannot
be evaluated, so the machine behind the host's interface is the block over the rationals (notes/assumptions/1.md). -/

namespace Sys2Proof

open scoped Real

/-- The real functions of 00_scope R9, with exact real arithmetic, of angles in radians. No rule divides by zero
(60_exceptions R394): that value stays open. -/
noncomputable def Numerics.real (divByZero : ℝ → ℝ) : Numerics ℝ :=
  Numerics.exact π
    { sin := fun a => Real.sin a.val
      cos := fun a => Real.cos a.val
      exp := Real.exp
      sqrt := Real.sqrt
      pow := fun x y => x ^ y
      pow10 := fun x => 10 ^ x
      divByZero := divByZero }

/-- The reference parameters: the third column of 00_scope R7 with NUMERICS real, for any processors of the type ids outside
the block. -/
noncomputable def Config.reference (divByZero : ℝ → ℝ) (ext : ExtProcs ℝ) : Config ℝ :=
  Config.r7 (Numerics.real divByZero) ext

end Sys2Proof

namespace Sys2Proof.Machine

/-- One step of the reference block. -/
noncomputable def referenceStep (divByZero : ℝ → ℝ) (ext : ExtProcs ℝ) (s : State ℝ) :
    Host.Outcome (State ℝ) Fault Refusal := stepFor (Config.reference divByZero ext) s

/-- The reference block as it is constructed. -/
noncomputable def referenceReset (divByZero : ℝ → ℝ) (ext : ExtProcs ℝ) : State ℝ :=
  State.resetWith (Config.reference divByZero ext)

end Sys2Proof.Machine
end

