-- ==== Sys2Proof/Safety.lean ====
section
/-! DEFINITION. What counts as a legal state and a safe step, in the terms statements use. -/

namespace Sys2Proof.Machine

variable {K : Type} [Field K] [LinearOrder K] [FloorRing K]

/-! ## Legal registers (10_state R71) -/

/-- A value is of its transform's kind and inside the legal range (10_state R21 to R69, 30_encoding R140). -/
def valueLegal : Transform K → Value K → Prop
  | .lin lo hi, .real x => lo ≤ x ∧ x ≤ hi
  | .idx m, .index n => 0 ≤ n ∧ n ≤ m
  | .bool, .flag _ => True
  | .pan, .real x => 0 ≤ x ∧ x ≤ 1
  | _, _ => False

/-- Every system field is inside its legal range. -/
def paramsLegal (p : Params K) : Prop := ∀ f : SysField, valueLegal (sysTransform f) (readSys p f)

/-- Every field of a bank is inside its legal range. -/
def channelLegal (c : Channel K) : Prop := ∀ f : ChField, valueLegal (chTransform f) (readCh c f)

/-! ## Legal runtime state (10_state R74 to R80) -/

/-- A phase is in [0, 2π) (45_chorus_moddelay R320). -/
def phaseLegal (n : Numerics K) (ph : Angle K) : Prop := 0 ≤ ph.val ∧ ph.val < 2 * n.pi

/-- The flanger record of a slot: pointer and phase in range (10_state R78). -/
def slotLegal (cfg : Config K) (s : Slot K) : Prop := s.flanger.w < cfg.flangerCap ∧ phaseLegal cfg.num s.flanger.ph

/-- Pointers and phases in range, every ring in its canonical form (10_state R74, R75, R78, 20_memory R100). -/
structure RuntimeLegal (cfg : Config K) (rt : Runtime K) : Prop where
  memory : Memory.wf cfg rt = true
  predelay : rt.rv.pd.w < cfg.pdCap
  comb : ∀ k : Fin 8, rt.rv.comb[k].w < cfg.combCap
  allpass : ∀ j : Fin 4, rt.rv.ap[j].w < cfg.apLen[j]
  chorus : rt.chorus.w < cfg.chorusCap
  phaseL : phaseLegal cfg.num rt.chorus.phL
  phaseR : phaseLegal cfg.num rt.chorus.phR
  variation : slotLegal cfg rt.variation
  insertion : ∀ c : Fin 16, slotLegal cfg rt.insertion[c]

/-- A legal state: what every state reached from reset is. -/
structure StateLegal (cfg : Config K) (s : State K) : Prop where
  params : paramsLegal s.p
  banks : ∀ c : Fin 16, channelLegal s.ch[c]
  runtime : RuntimeLegal cfg s.rt

/-- The followers of a slot: `env ≥ 0` and `g` in [0, 1] (10_state R79, R80). -/
def followersLegal (s : Slot K) : Prop := 0 ≤ s.compressor.env ∧ 0 ≤ s.gate.g ∧ s.gate.g ≤ 1

/-- The followers of every slot. -/
def allFollowersLegal (rt : Runtime K) : Prop :=
  followersLegal rt.variation ∧ ∀ c : Fin 16, followersLegal rt.insertion[c]

/-! ## Round trips -/

/-- Two values of a field are within half a quantisation step of each other, and equal for an index or a flag
(30_encoding R142). -/
def valueWithinStep : Transform K → Value K → Value K → Prop
  | .lin lo hi, .real x, .real y => |x - y| ≤ (hi - lo) / 32766
  | .pan, .real x, .real y => |x - y| ≤ 1 / 32766
  | .idx _, .index m, .index n => m = n
  | .bool, .flag a, .flag b => a = b
  | _, _, _ => False

/-! ## Silence (41_mixing R233) -/

/-- The rings, followers and hold counts of a slot are 0. -/
def slotQuiet (s : Slot K) : Prop :=
  s.flanger.bufL = emptyRing ∧ s.flanger.bufR = emptyRing ∧ s.compressor = ⟨0⟩ ∧ s.gate = ⟨0, 0⟩

/-- Every ring, follower and filter state is 0; pointers, phases and external records may be anything. -/
structure RuntimeQuiet (rt : Runtime K) : Prop where
  predelay : rt.rv.pd.buf = emptyRing
  comb : ∀ k : Fin 8, rt.rv.comb[k].buf = emptyRing
  allpass : ∀ j : Fin 4, rt.rv.ap[j].buf = emptyRing
  chorusL : rt.chorus.bufL = emptyRing
  chorusR : rt.chorus.bufR = emptyRing
  eq : rt.eq = ⟨resetEqSide, resetEqSide⟩
  variation : slotQuiet rt.variation
  insertion : ∀ c : Fin 16, slotQuiet rt.insertion[c]

/-- No slot that can run runs a type outside the block: the variation and every insertion effect is bypassed, is not sent
to, or has a type id of 43_registry R271 below 5. -/
def OnlyBlockTypes (p : Params K) (ch : Vector (Channel K) 16) : Prop :=
  (p.variation.bypass = true ∨ (0 ≤ p.variation.typeId ∧ p.variation.typeId ≤ 4)) ∧
  ∀ c : Fin 16, ch[c].insBypass = true ∨ ch[c].insertionSend ≤ 0 ∨ (0 ≤ ch[c].insType ∧ ch[c].insType ≤ 4)

/-! ## Safe steps -/

/-- The items on the port are, as far as the next record goes, of the kinds its format asks for. -/
def PortTyped (s : State) : Prop := decode s.port ≠ .wrongItem

/-- A safe step: the machine answers a next state. -/
def SafeStep (s : State) : Prop := ∃ t, step s = .next t

end Sys2Proof.Machine
end

