-- ==== Sys2Proof/Certificates/Slice0/Obligations.lean ====
section
/-! DEFINITION. The statements for the provers: each formalises rules of spec/, named in its docstring. -/

open Sys2Proof Sys2Proof.Machine

/-! ## The decoder, the encoder and the step -/

/-- In the machine, and in a block with any parameters over any numbers (00_scope R7, R9), decoding the record of a well-formed
instruction gives the instruction back, whatever follows it (30_encoding R132 to R138, R141, R143 to R146). -/
def Obligations.DecodeInvertsEncode : Prop :=
  (∀ (i : Instr) (rest : List PortItem), i.wellFormed = true → decode (encode i ++ rest) = .instr i rest) ∧
  (∀ (K : Type) (cfg : Config K) (i : Instr K) (rest : List (PortItem K)), i.wellFormedFor cfg = true →
    decodeFor cfg (encodeFor cfg i ++ rest) = .instr i rest)

/-- In the machine, and in a block with any parameters over any numbers (00_scope R7, R9), what the decoder reads is the record
of a well-formed instruction: no two records read alike (30_encoding R132 to R138, R141, R143 to R146). -/
def Obligations.EncodeInvertsDecode : Prop :=
  (∀ (items rest : List PortItem) (i : Instr), decode items = .instr i rest →
    i.wellFormed = true ∧ items = encode i ++ rest) ∧
  (∀ (K : Type) (cfg : Config K) (items rest : List (PortItem K)) (i : Instr K), decodeFor cfg items = .instr i rest →
    i.wellFormedFor cfg = true ∧ items = encodeFor cfg i ++ rest)

/-- A reserved opcode (1 byte) and a reserved ENC scope (2 bytes) are refused: the step takes the record, answers REFUSED and
changes no state (30_encoding R131, R134, R138, R151). That a refused ENC takes 2 bytes off the port is the model's choice
(DEDUCED from R138, notes/assumptions/16.md). -/
def Obligations.ReservedRecordsAreRefused : Prop :=
  ∀ (s : State) (b : Byte) (rest : List PortItem),
    (s.port = .byte b :: rest → (b.toNat = 0 ∨ 8 ≤ b.toNat) →
      step s = .next { s with port := rest, result := some .refused }) ∧
    (s.port = .byte 0x03 :: .byte b :: rest → 2 ≤ b.toNat →
      step s = .next { s with port := rest, result := some .refused })

/-- Records written out byte by byte from 30_encoding R132 to R136 and R144 to R146 decode to what they stand for. -/
def Obligations.KnownRecordsDecode : Prop :=
  decode (byteItems [0x01, 0xFF, 0x00, 0x00, 0x7F, 0x7F]) = .instr (.puReverbTime 0xFF 0x7F 0x7F) [] ∧
  decode (byteItems [0x01, 0x03, 0x00, 0x4B, 0x40, 0x00]) = .instr (.puChPan 0x03 0x40 0x00) [] ∧
  decode (byteItems [0x01, 0xFF, 0x01, 0x00, 0x7F, 0x7F]) = .instr (.pu 0xFF 0x01 0x00 0x7F 0x7F) [] ∧
  decode (byteItems [0x02, 0x01, 0x00, 0x05, 0x43, 0x7F, 0x10, 0x00, 0x04, 0x40]) =
    .instr (.sxParamChange 0x7F 0x00 0x04 0x40 []) [] ∧
  decode (byteItems [0x02, 0x01, 0x00, 0x03, 0x43, 0x7F, 0x00, 0x03]) = .instr (.sxBulkSystem 0x7F []) [] ∧
  decode (byteItems [0x02, 0x01, 0x00, 0x03, 0x43, 0x7F, 0x00, 0x04]) = .instr (.sxBulkChannel 0x7F []) [] ∧
  decode (byteItems [0x03, 0x00]) = .instr .encSys [] ∧
  decode (byteItems [0x03, 0x01]) = .instr .encChan [] ∧
  decode (byteItems [0x04, 0x01, 0x01] ++ [.real 1, .real 0, .real 2]) = .instr (.proc [⟨1, 0⟩] [2]) [] ∧
  decode (byteItems [0x05]) = .instr .get [] ∧
  decode (byteItems [0x06] ++ [.snapshot zeroSnapshot]) = .instr (.set zeroSnapshot) [] ∧
  decode (byteItems [0x07]) = .instr .rst []

/-- A step performs the command the port's items decode to, with the record taken off the port (00_scope R4, 30_encoding
R130), in the machine and in a block with any parameters over any numbers with any arithmetic (00_scope R7, R9;
93_implementation_defined U7); the machine is the block over the rationals under the third column of R7, the reference block is
it over the reals with the real functions, and the binary64 block is it over binary64 numbers (IEEE-754's arithmetic is PRESUMED,
notes/assumptions/21.md). -/
def Obligations.StepPerformsTheDecodedCommand : Prop :=
  (∀ (s : State) (i : Instr) (rest : List PortItem), decode s.port = .instr i rest →
    step s = exec i { s with port := rest }) ∧
  (∀ (K : Type) [Zero K] [One K] [Add K] [Sub K] [Mul K] [Div K] [Neg K] [NatCast K] [IntCast K] [Max K] [Min K]
    [LT K] [DecidableLT K] [DecidableEq K],
    ∀ (cfg : Config K) (s : State K) (i : Instr K) (rest : List (PortItem K)), decodeFor cfg s.port = .instr i rest →
      stepFor cfg s = execFor cfg i { s with port := rest }) ∧
  (∀ s : State, stepFor Config.machine s = step s) ∧
  (∀ (i : Instr) (s : State), execFor Config.machine i s = exec i s) ∧
  (∀ (divByZero : ℝ → ℝ) (ext : ExtProcs ℝ) (s : State ℝ) (i : Instr ℝ) (rest : List (PortItem ℝ)),
    decodeFor (Config.reference divByZero ext) s.port = .instr i rest →
    referenceStep divByZero ext s = execFor (Config.reference divByZero ext) i { s with port := rest }) ∧
  (∀ (cfg : Config Binary64) (s : State Binary64) (i : Instr Binary64) (rest : List (PortItem Binary64)),
    decodeFor cfg s.port = .instr i rest → binary64Step cfg s = binary64Exec cfg i { s with port := rest })

/-- With no whole record on the port a step changes nothing. That an unfinished record waits is the model's choice
(notes/assumptions/8.md); that the engine does nothing between commands is 60_exceptions R393. -/
def Obligations.StepWaitsForAWholeRecord : Prop :=
  (∀ s : State, s.port = [] → step s = .next s) ∧
  (∀ (s : State) (i : Instr) (k : Nat), i.wellFormed = true → k < (encode i).length → s.port = (encode i).take k →
    step s = .next s)

/-- No instruction stops the machine, nor a block with any parameters over any numbers with any arithmetic (00_scope R7, R9;
93_implementation_defined U7): every meaning answers a next state; so in the binary64 block; a step of the machine stops only
where an item of the port is of another kind than the record format asks for (the model's own fault, notes/assumptions/9.md).
-/
def Obligations.OnlyAWrongItemStopsAStep : Prop :=
  (∀ (i : Instr) (s : State), ∃ t, exec i s = .next t) ∧
  (∀ (K : Type) [Zero K] [One K] [Add K] [Sub K] [Mul K] [Div K] [Neg K] [NatCast K] [IntCast K] [Max K] [Min K]
    [LT K] [DecidableLT K] [DecidableEq K] (cfg : Config K) (i : Instr K) (s : State K),
    ∃ t, execFor cfg i s = .next t) ∧
  (∀ (cfg : Config Binary64) (i : Instr Binary64) (s : State Binary64), ∃ t, binary64Exec cfg i s = .next t) ∧
  (∀ s : State, PortTyped s → SafeStep s) ∧
  (∀ s : State, ¬ PortTyped s → step s = .fault .wrongItem)

/-! ## Parameter update -/

/-- The 5 PU rows of the REVERB entity (R21 to R25, R180, R183, R137), with an admissible channel and data bytes: the
field takes the decoded value, the result is OK, and nothing else changes. -/
def Obligations.ReverbParameterWritesStoreTheDecodedValue : Prop :=
  ∀ (ch vH vL : Byte) (s : State) (v : Nat), vH.toNat ≤ 127 → vL.toNat ≤ 127 → (ch.toNat ≤ 15 ∨ ch = 0xFF) →
    v = vH.toNat * 128 + vL.toNat →
    exec (.puReverbTime ch vH vL) s =
      .next { s with p.reverb.time := (1 / 10) + (41 / 5) * (v : Scalar) / 16383, result := some .ok } ∧
    exec (.puReverbPreDelay ch vH vL) s =
      .next { s with p.reverb.preDelay := (127 / 10000) * (v : Scalar) / 16383, result := some .ok } ∧
    exec (.puReverbHfDamping ch vH vL) s =
      .next { s with p.reverb.hfDamping := (v : Scalar) / 16383, result := some .ok } ∧
    exec (.puReverbDensity ch vH vL) s =
      .next { s with p.reverb.density := (v : Scalar) / 16383, result := some .ok } ∧
    exec (.puReverbLevel ch vH vL) s =
      .next { s with p.reverb.level := (v : Scalar) / 16383, result := some .ok }

/-- The 7 PU rows of the CHORUS entity (R26 to R32, R180, R183, R137), with an admissible channel and data bytes: the
field takes the decoded value, the result is OK, and nothing else changes. -/
def Obligations.ChorusParameterWritesStoreTheDecodedValue : Prop :=
  ∀ (ch vH vL : Byte) (s : State) (v : Nat), vH.toNat ≤ 127 → vL.toNat ≤ 127 → (ch.toNat ≤ 15 ∨ ch = 0xFF) →
    v = vH.toNat * 128 + vL.toNat →
    exec (.puChorusRate ch vH vL) s =
      .next { s with p.chorus.rate := 10 * (v : Scalar) / 16383, result := some .ok } ∧
    exec (.puChorusDepth ch vH vL) s =
      .next { s with p.chorus.depth := (v : Scalar) / 16383, result := some .ok } ∧
    exec (.puChorusFeedback ch vH vL) s =
      .next { s with p.chorus.feedback := (v : Scalar) / 16383, result := some .ok } ∧
    exec (.puChorusCrossFeedback ch vH vL) s =
      .next { s with p.chorus.crossFeedback := (v : Scalar) / 16383, result := some .ok } ∧
    exec (.puChorusBaseDelay ch vH vL) s =
      .next { s with p.chorus.baseDelay := (1 / 1000) + (29 / 1000) * (v : Scalar) / 16383, result := some .ok } ∧
    exec (.puChorusOutput ch vH vL) s =
      .next { s with p.chorus.output := (v : Scalar) / 16383, result := some .ok } ∧
    exec (.puChorusLevel ch vH vL) s =
      .next { s with p.chorus.level := (v : Scalar) / 16383, result := some .ok }

/-- The 7 PU rows of the VARIATION entity (R33 to R39, R180, R183, R137), with an admissible channel and data bytes: the
field takes the decoded value, the result is OK, and nothing else changes. -/
def Obligations.VariationParameterWritesStoreTheDecodedValue : Prop :=
  ∀ (ch vH vL : Byte) (s : State) (v : Nat), vH.toNat ≤ 127 → vL.toNat ≤ 127 → (ch.toNat ≤ 15 ∨ ch = 0xFF) →
    v = vH.toNat * 128 + vL.toNat →
    exec (.puVariationType ch vH vL) s =
      .next { s with p.variation.typeId := ((min 127 (v / 128) : Nat) : Int), result := some .ok } ∧
    exec (.puVariationParam1 ch vH vL) s =
      .next { s with p.variation.param1 := (v : Scalar) / 16383, result := some .ok } ∧
    exec (.puVariationParam2 ch vH vL) s =
      .next { s with p.variation.param2 := (v : Scalar) / 16383, result := some .ok } ∧
    exec (.puVariationParam3 ch vH vL) s =
      .next { s with p.variation.param3 := (v : Scalar) / 16383, result := some .ok } ∧
    exec (.puVariationParam4 ch vH vL) s =
      .next { s with p.variation.param4 := (v : Scalar) / 16383, result := some .ok } ∧
    exec (.puVariationLevel ch vH vL) s =
      .next { s with p.variation.level := (v : Scalar) / 16383, result := some .ok } ∧
    exec (.puVariationBypass ch vH vL) s =
      .next { s with p.variation.bypass := decide (v ≠ 0), result := some .ok }

/-- The 5 PU rows of the EQUALIZER entity (R40 to R44, R180, R183, R137), with an admissible channel and data bytes: the
field takes the decoded value, the result is OK, and nothing else changes. -/
def Obligations.EqualizerParameterWritesStoreTheDecodedValue : Prop :=
  ∀ (ch vH vL : Byte) (s : State) (v : Nat), vH.toNat ≤ 127 → vL.toNat ≤ 127 → (ch.toNat ≤ 15 ∨ ch = 0xFF) →
    v = vH.toNat * 128 + vL.toNat →
    exec (.puEqLowGain ch vH vL) s =
      .next { s with p.eq.lowGain := (-12) + 24 * (v : Scalar) / 16383, result := some .ok } ∧
    exec (.puEqMidGain ch vH vL) s =
      .next { s with p.eq.midGain := (-12) + 24 * (v : Scalar) / 16383, result := some .ok } ∧
    exec (.puEqHighGain ch vH vL) s =
      .next { s with p.eq.highGain := (-12) + 24 * (v : Scalar) / 16383, result := some .ok } ∧
    exec (.puEqMidFreq ch vH vL) s =
      .next { s with p.eq.midFreq := 100 + 9900 * (v : Scalar) / 16383, result := some .ok } ∧
    exec (.puEqMidQ ch vH vL) s =
      .next { s with p.eq.midQ := (1 / 2) + (19 / 2) * (v : Scalar) / 16383, result := some .ok }

/-- The 7 PU rows of the ROUTING entity (R45 to R51, R180, R183, R137), with an admissible channel and data bytes: the
field takes the decoded value, the result is OK, and nothing else changes. -/
def Obligations.RoutingParameterWritesStoreTheDecodedValue : Prop :=
  ∀ (ch vH vL : Byte) (s : State) (v : Nat), vH.toNat ≤ 127 → vL.toNat ≤ 127 → (ch.toNat ≤ 15 ∨ ch = 0xFF) →
    v = vH.toNat * 128 + vL.toNat →
    exec (.puRoutingEffectOrder ch vH vL) s =
      .next { s with p.routing.effectOrder := ((min 5 (v / 128) : Nat) : Int), result := some .ok } ∧
    exec (.puRoutingSendReverbToChorus ch vH vL) s =
      .next { s with p.routing.sendReverbToChorus := (v : Scalar) / 16383, result := some .ok } ∧
    exec (.puRoutingSendReverbToVariation ch vH vL) s =
      .next { s with p.routing.sendReverbToVariation := (v : Scalar) / 16383, result := some .ok } ∧
    exec (.puRoutingSendChorusToReverb ch vH vL) s =
      .next { s with p.routing.sendChorusToReverb := (v : Scalar) / 16383, result := some .ok } ∧
    exec (.puRoutingSendChorusToVariation ch vH vL) s =
      .next { s with p.routing.sendChorusToVariation := (v : Scalar) / 16383, result := some .ok } ∧
    exec (.puRoutingSendVariationToReverb ch vH vL) s =
      .next { s with p.routing.sendVariationToReverb := (v : Scalar) / 16383, result := some .ok } ∧
    exec (.puRoutingSendVariationToChorus ch vH vL) s =
      .next { s with p.routing.sendVariationToChorus := (v : Scalar) / 16383, result := some .ok }

/-- The 3 PU rows of the GLOBAL entity (R52 to R54, R180, R183, R137), with an admissible channel and data bytes: the
field takes the decoded value, the result is OK, and nothing else changes. -/
def Obligations.GlobalParameterWritesStoreTheDecodedValue : Prop :=
  ∀ (ch vH vL : Byte) (s : State) (v : Nat), vH.toNat ≤ 127 → vL.toNat ≤ 127 → (ch.toNat ≤ 15 ∨ ch = 0xFF) →
    v = vH.toNat * 128 + vL.toNat →
    exec (.puGlobalMasterLevel ch vH vL) s =
      .next { s with p.global.masterLevel := (v : Scalar) / 16383, result := some .ok } ∧
    exec (.puGlobalBypass ch vH vL) s =
      .next { s with p.global.bypass := decide (v ≠ 0), result := some .ok } ∧
    exec (.puGlobalCurrentChannel ch vH vL) s =
      .next { s with p.global.currentChannel := ((min 15 (v / 128) : Nat) : Int), result := some .ok }

/-- The 7 PU rows of the INSERTION fields of a channel bank (R55 to R61, R180, R181, R183, R137), with data bytes: the field
of the bank that the channel byte names, or the cursor where it is absent, takes the decoded value; the result is OK; nothing
else changes. -/
def Obligations.InsertionParameterWritesStoreTheDecodedValue : Prop :=
  ∀ (ch vH vL : Byte) (s : State) (v : Nat) (c : Fin 16), vH.toNat ≤ 127 → vL.toNat ≤ 127 →
    v = vH.toNat * 128 + vL.toNat →
    (ch.toNat = c.val ∨ (ch = 0xFF ∧ s.p.global.currentChannel = (c.val : Int))) →
    exec (.puChInsType ch vH vL) s =
      .next { s with ch := s.ch.set c { s.ch[c] with insType := ((min 127 (v / 128) : Nat) : Int) }, result := some .ok } ∧
    exec (.puChInsParam1 ch vH vL) s =
      .next { s with ch := s.ch.set c { s.ch[c] with insParam1 := (v : Scalar) / 16383 }, result := some .ok } ∧
    exec (.puChInsParam2 ch vH vL) s =
      .next { s with ch := s.ch.set c { s.ch[c] with insParam2 := (v : Scalar) / 16383 }, result := some .ok } ∧
    exec (.puChInsParam3 ch vH vL) s =
      .next { s with ch := s.ch.set c { s.ch[c] with insParam3 := (v : Scalar) / 16383 }, result := some .ok } ∧
    exec (.puChInsParam4 ch vH vL) s =
      .next { s with ch := s.ch.set c { s.ch[c] with insParam4 := (v : Scalar) / 16383 }, result := some .ok } ∧
    exec (.puChInsLevel ch vH vL) s =
      .next { s with ch := s.ch.set c { s.ch[c] with insLevel := (v : Scalar) / 16383 }, result := some .ok } ∧
    exec (.puChInsBypass ch vH vL) s =
      .next { s with ch := s.ch.set c { s.ch[c] with insBypass := decide (v ≠ 0) }, result := some .ok }

/-- The 8 PU rows of the CHANNEL fields of a channel bank (R62 to R69, R180, R181, R183, R137), with data bytes: the field of the
bank that the channel byte names, or the cursor where it is absent, takes the decoded value; the result is OK; nothing else
changes. -/
def Obligations.ChannelParameterWritesStoreTheDecodedValue : Prop :=
  ∀ (ch vH vL : Byte) (s : State) (v : Nat) (c : Fin 16), vH.toNat ≤ 127 → vL.toNat ≤ 127 →
    v = vH.toNat * 128 + vL.toNat →
    (ch.toNat = c.val ∨ (ch = 0xFF ∧ s.p.global.currentChannel = (c.val : Int))) →
    exec (.puChReverbSend ch vH vL) s =
      .next { s with ch := s.ch.set c { s.ch[c] with reverbSend := (v : Scalar) / 16383 }, result := some .ok } ∧
    exec (.puChChorusSend ch vH vL) s =
      .next { s with ch := s.ch.set c { s.ch[c] with chorusSend := (v : Scalar) / 16383 }, result := some .ok } ∧
    exec (.puChVariationSend ch vH vL) s =
      .next { s with ch := s.ch.set c { s.ch[c] with variationSend := (v : Scalar) / 16383 }, result := some .ok } ∧
    exec (.puChInsertionSend ch vH vL) s =
      .next { s with ch := s.ch.set c { s.ch[c] with insertionSend := (v : Scalar) / 16383 }, result := some .ok } ∧
    exec (.puChPan ch vH vL) s =
      .next { s with ch := s.ch.set c { s.ch[c] with pan := (v : Scalar) / 16383 }, result := some .ok } ∧
    exec (.puChVolume ch vH vL) s =
      .next { s with ch := s.ch.set c { s.ch[c] with volume := (v : Scalar) / 16383 }, result := some .ok } ∧
    exec (.puChMute ch vH vL) s =
      .next { s with ch := s.ch.set c { s.ch[c] with mute := decide (v ≠ 0) }, result := some .ok } ∧
    exec (.puChSolo ch vH vL) s =
      .next { s with ch := s.ch.set c { s.ch[c] with solo := decide (v ≠ 0) }, result := some .ok }

/-- PU at any address (40_protocol R180, 20_memory R105): not admissible, or at an address that names nothing, it changes nothing
and returns OK; else it stores the decoded value in the field of that row, in the resolved bank, and is the row's own
instruction. -/
def Obligations.GeneralUpdateFollowsTheTable : Prop :=
  ∀ (ch aH aL vH vL : Byte) (s : State),
    (127 < vH.toNat ∨ 127 < vL.toNat ∨ (15 < ch.toNat ∧ ch ≠ 0xFF) →
      exec (.pu ch aH aL vH vL) s = .next { s with result := some .ok }) ∧
    ((aH ≠ 0 ∨ ∀ f : ParamField, aL ≠ fieldAddress f) →
      exec (.pu ch aH aL vH vL) s = .next { s with result := some .ok }) ∧
    (∀ f : ParamField, aH = 0 → aL = fieldAddress f → exec (.pu ch aH aL vH vL) s = exec (paramInstr f ch vH vL) s) ∧
    (∀ f : ParamField, aH = 0 → aL = fieldAddress f → vH.toNat ≤ 127 → vL.toNat ≤ 127 → (ch.toNat ≤ 15 ∨ ch = 0xFF) →
      exec (.pu ch aH aL vH vL) s =
        .next { writeField f (resolveChannel ch s) (decodeValue (fieldTransform f) (vH.toNat * 128 + vL.toNat)) s with
                result := some .ok })

/-- Admissibility (40_protocol R182): a write is admissible iff its value bytes are data bytes and its channel byte is in
{0x00, ..., 0x0F, 0xFF}; a PU that is not is dropped with result OK. -/
def Obligations.InadmissibleUpdatesAreDropped : Prop :=
  ∀ (ch vH vL : Byte),
    (admissible ch vH vL = true ↔ vH.toNat ≤ 127 ∧ vL.toNat ≤ 127 ∧ (ch.toNat ≤ 15 ∨ ch = 0xFF)) ∧
    (admissible ch vH vL = false → ∀ s : State,
      (∀ aH aL : Byte, exec (.pu ch aH aL vH vL) s = .next { s with result := some .ok }) ∧
      (∀ f : ParamField, exec (paramInstr f ch vH vL) s = .next { s with result := some .ok }))

/-- Channel resolution (40_protocol R181): an admissible write of a channel field reaches the explicit bank, or the bank the
cursor names where the channel is absent, and no other bank. The cursor is the system field at (0x00, 0x3A) and is changed only
by writing that field: not by a PU or an SX parameter change of another address, a dump that does not write it, any other SX,
ENC, GET or PROC. -/
def Obligations.ChannelWritesGoToTheResolvedBank : Prop :=
  (∀ (f : ChField) (ch vH vL : Byte) (s : State), vH.toNat ≤ 127 → vL.toNat ≤ 127 →
    (ch.toNat ≤ 15 ∨ (ch = 0xFF ∧ 0 ≤ s.p.global.currentChannel ∧ s.p.global.currentChannel ≤ 15)) →
    ∃ t, exec (paramInstr (.ch f) ch vH vL) s = .next t ∧ t.p = s.p ∧ ∀ c : Fin 16,
      t.ch[c] =
        if (if ch = 0xFF then s.p.global.currentChannel else (ch.toNat : Int)) = (c.val : Int) then
          writeCh s.ch[c] f (decodeValue (chTransform f) (vH.toNat * 128 + vL.toNat))
        else s.ch[c]) ∧
  descriptor 0x00 0x3A = some (.sys .globalCurrentChannel) ∧
  (∀ (ch aH aL vH vL : Byte) (s t : State), (aH ≠ 0x00 ∨ aL ≠ 0x3A) →
    exec (.pu ch aH aL vH vL) s = .next t → t.p.global.currentChannel = s.p.global.currentChannel) ∧
  (∀ (f : ParamField) (ch vH vL : Byte) (s t : State), f ≠ .sys .globalCurrentChannel →
    exec (paramInstr f ch vH vL) s = .next t → t.p.global.currentChannel = s.p.global.currentChannel) ∧
  (∀ (dev aH aL value : Byte) (tail : List Byte) (s t : State), (aH ≠ 0x00 ∨ aL ≠ 0x3A) →
    (exec (.sxParamChange dev aH aL value tail) s = .next t ∨
      exec (.sx [0x43] (dev :: 0x10 :: aH :: aL :: value :: tail)) s = .next t) →
    t.p.global.currentChannel = s.p.global.currentChannel) ∧
  (∀ (vendor body : List Byte) (s t : State), (Instr.sx vendor body).wellFormed = true →
    exec (.sx vendor body) s = .next t → t.p.global.currentChannel = s.p.global.currentChannel) ∧
  (∀ (dev : Byte) (records : List Byte) (s t : State), exec (.sxBulkChannel dev records) s = .next t →
    t.p.global.currentChannel = s.p.global.currentChannel) ∧
  (∀ (dev : Byte) (records : List Byte) (s t : State),
    (∀ w ∈ systemWrites records, w.field ≠ .sys .globalCurrentChannel) → exec (.sxBulkSystem dev records) s = .next t →
    t.p.global.currentChannel = s.p.global.currentChannel) ∧
  (∀ (i : Instr) (s t : State), (i = .encSys ∨ i = .encChan ∨ i = .get ∨ ∃ fs ls, i = .proc fs ls) →
    exec i s = .next t → t.p.global.currentChannel = s.p.global.currentChannel)

/-- Field write (40_protocol R183): the field named reads as the value stored; every other field of P and of every bank, the
runtime state, the port and the result are as before; for a system field the channel is not used. -/
def Obligations.FieldWriteChangesOneField : Prop :=
  (∀ (f : SysField) (c v : Nat) (s : State) (x : Value), x = decodeValue (sysTransform f) v →
    readSys (writeField (.sys f) c x s).p f = x ∧
    (∀ g : SysField, g ≠ f → readSys (writeField (.sys f) c x s).p g = readSys s.p g) ∧
    writeField (.sys f) c x s = { s with p := (writeField (.sys f) c x s).p } ∧
    ∀ d : Nat, writeField (.sys f) d x s = writeField (.sys f) c x s) ∧
  (∀ (f : ChField) (c : Fin 16) (v : Nat) (s : State) (x : Value), x = decodeValue (chTransform f) v →
    readCh (writeField (.ch f) c x s).ch[c] f = x ∧
    (∀ g : ChField, g ≠ f → readCh (writeField (.ch f) c x s).ch[c] g = readCh s.ch[c] g) ∧
    (∀ d : Fin 16, d ≠ c → (writeField (.ch f) c x s).ch[d] = s.ch[d]) ∧
    writeField (.ch f) c x s = { s with ch := (writeField (.ch f) c x s).ch })

/-- Value assembly (30_encoding R139): for data bytes v = vH·128 + vL is in [0, 16383], with v[13:7] = vH and v[6:0] = vL; a
write whose vH or vL exceeds 127 is dropped. -/
def Obligations.ValueBytesAssemble : Prop :=
  ∀ (vH vL : Byte),
    (vH.toNat ≤ 127 → vL.toNat ≤ 127 →
      value14 vH vL = vH.toNat * 128 + vL.toNat ∧ value14 vH vL ≤ 16383 ∧
      value14 vH vL / 128 = vH.toNat ∧ value14 vH vL % 128 = vL.toNat ∧
      highByte (value14 vH vL) = vH ∧ lowByte (value14 vH vL) = vL) ∧
    (127 < vH.toNat ∨ 127 < vL.toNat → ∀ (f : ParamField) (ch aH aL : Byte) (s : State),
      exec (paramInstr f ch vH vL) s = .next { s with result := some .ok } ∧
      exec (.pu ch aH aL vH vL) s = .next { s with result := some .ok })

/-- The decode transforms (30_encoding R140): their values, their end points, the physical pan, and that every decoded value
lies in its field's legal range. -/
def Obligations.DecodeTransformsAreTotalAndLegal : Prop :=
  ∀ (K : Type) [Field K] [LinearOrder K] [IsStrictOrderedRing K] [FloorRing K],
  (∀ (lo hi : K) (v : Nat), decodeValue (.lin lo hi) v = .real (lo + (hi - lo) * v / 16383)) ∧
  (∀ lo hi : K, decodeValue (.lin lo hi) 0 = .real lo ∧ decodeValue (.lin lo hi) 16383 = .real hi) ∧
  (∀ m v : Nat, (decodeValue (.idx m) v : Value K) = .index ((min m (v / 128) : Nat) : Int)) ∧
  (∀ v : Nat, (decodeValue .bool v : Value K) = .flag (decide (v ≠ 0))) ∧
  (∀ v : Nat, (decodeValue .pan v : Value K) = .real ((v : K) / 16383) ∧
    physicalPan v = 2 * ((v : K) / 16383) - 1) ∧
  (∀ (f : ParamField) (v : Nat), v ≤ 16383 →
    valueLegal (fieldTransform f : Transform K) (decodeValue (fieldTransform f) v))

/-- The encode transforms (30_encoding R142), in a block over any numbers with exact arithmetic (00_scope R9): their formulas,
a half rounded up; a decoded value encodes back to its 14-bit value for the LIN and PAN rows; a legal value decodes back
exactly for IDX and BOOL and to within half a quantisation step for LIN and PAN. -/
def Obligations.EncodeInvertsTheTransforms : Prop :=
  ∀ (K : Type) [Field K] [LinearOrder K] [IsStrictOrderedRing K] [FloorRing K] (n : Numerics K), n.IsExact →
  (∀ lo hi x : K, lo < hi →
    (encodeValue n (.lin lo hi) (.real x) : Int) = min 16383 (max 0 ⌊(x - lo) / (hi - lo) * 16383 + 1 / 2⌋)) ∧
  (∀ x : K, (encodeValue n .pan (.real x : Value K) : Int) = min 16383 (max 0 ⌊x * 16383 + 1 / 2⌋)) ∧
  (∀ (m : Nat) (k : Int), 0 ≤ k → k ≤ m → (encodeValue n (.idx m) (.index k : Value K) : Int) = 128 * k) ∧
  (∀ b : Bool, encodeValue n .bool (.flag b : Value K) = if b then 16383 else 0) ∧
  (∀ (lo hi : K) (v : Nat), lo < hi → v ≤ 16383 →
    encodeValue n (.lin lo hi) (decodeValue (.lin lo hi) v) = v ∧ encodeValue n .pan (decodeValue .pan v : Value K) = v) ∧
  (∀ (f : ParamField) (x : Value K), valueLegal (fieldTransform f) x →
    encodeValue n (fieldTransform f) x ≤ 16383 ∧
    valueWithinStep (fieldTransform f) (decodeValue (fieldTransform f) (encodeValue n (fieldTransform f) x)) x)

/-! ## System exclusive -/

/-- SX parameter change (40_protocol R187): with a body of at least 5 bytes, a PU with the channel absent, the value byte in
valueHigh and valueLow = 0: a system field, or a channel field of the bank the cursor names, takes the value decoded from
value·128; an unknown address, and a value byte of 128 or more, is dropped. The device id and the tail are not looked at. -/
def Obligations.ParameterChangeIsAnUpdateThroughTheCursor : Prop :=
  ∀ (dev aH aL value : Byte) (tail : List Byte) (s : State),
    exec (.sx [0x43] (dev :: 0x10 :: aH :: aL :: value :: tail)) s = exec (.sxParamChange dev aH aL value tail) s ∧
    (∀ short : List Byte, short.length < 3 →
      exec (.sx [0x43] (dev :: 0x10 :: short)) s = .next { s with result := some .ok }) ∧
    exec (.sxParamChange dev aH aL value tail) s = exec (.pu 0xFF aH aL value 0x00) s ∧
    (value.toNat ≤ 127 → aH = 0 →
      (∀ f : SysField, aL = sysAddress f → exec (.sxParamChange dev aH aL value tail) s =
        .next { s with p := writeSys s.p f (decodeValue (sysTransform f) (value.toNat * 128)), result := some .ok }) ∧
      (∀ (f : ChField) (c : Fin 16), aL = chAddress f → s.p.global.currentChannel = (c.val : Int) →
        exec (.sxParamChange dev aH aL value tail) s =
          .next { s with ch := s.ch.set c (writeCh s.ch[c] f (decodeValue (chTransform f) (value.toNat * 128))),
                         result := some .ok })) ∧
    (128 ≤ value.toNat ∨ aH ≠ 0 ∨ (∀ f : ParamField, aL ≠ fieldAddress f) →
      exec (.sxParamChange dev aH aL value tail) s = .next { s with result := some .ok })

/-- Ignored SysEx (30_encoding R148): the listed messages return OK and change nothing. -/
def Obligations.MalformedSysExIsIgnored : Prop :=
  ∀ (vendor body : List Byte) (s : State),
    (vendor ≠ [0x43] ∨ body.length < 2 ∨
      (∃ sub, body[1]? = some sub ∧ sub ≠ 0x10 ∧ sub ≠ 0x00) ∨
      (body[1]? = some 0x10 ∧ body.length < 5) ∨
      (body[1]? = some 0x00 ∧
        (body.length < 3 ∨ ∃ kind, body[2]? = some kind ∧ kind ≠ 0x03 ∧ kind ≠ 0x04))) →
    exec (.sx vendor body) s = .next { s with result := some .ok }

/-- The record scanner (40_protocol R190): fewer bytes than a record give nothing; a recognised record is taken and the scan
goes on behind it; an unrecognised position is passed by one byte. -/
def Obligations.BulkScannerResynchronises : Prop :=
  (∀ bytes : List Byte, bytes.length < 4 → systemWrites bytes = []) ∧
  (∀ (r0 r1 r2 r3 : Byte) (rest : List Byte) (w : FieldWrite), systemRecord (r0 :: r1 :: r2 :: r3 :: rest) = some w →
    systemWrites (r0 :: r1 :: r2 :: r3 :: rest) = w :: systemWrites rest) ∧
  (∀ (b : Byte) (rest : List Byte), systemRecord (b :: rest) = none →
    systemWrites (b :: rest) = systemWrites rest) ∧
  (∀ bytes : List Byte, bytes.length < 5 → channelWrites bytes = []) ∧
  (∀ (r0 r1 r2 r3 r4 : Byte) (rest : List Byte) (w : FieldWrite),
    channelRecord (r0 :: r1 :: r2 :: r3 :: r4 :: rest) = some w →
    channelWrites (r0 :: r1 :: r2 :: r3 :: r4 :: rest) = w :: channelWrites rest) ∧
  (∀ (b : Byte) (rest : List Byte), channelRecord (b :: rest) = none →
    channelWrites (b :: rest) = channelWrites rest) ∧
  (∀ (ws : List FieldWrite) (w : FieldWrite) (s : State),
    applyWrites (ws ++ [w]) s =
      writeField w.field w.bank (decodeValue (fieldTransform w.field) w.value) (applyWrites ws s))

/-- The two bulk framings (40_protocol R188, R189): exactly the records with a row of the framing's scope, data bytes and (per
channel) a channel of at most 15 are recognised, and the dump applies them in stream order with result OK; the runtime state
is untouched. -/
def Obligations.BulkDumpsApplyTheirRecords : Prop :=
  (∀ (dev : Byte) (records : List Byte) (s : State),
    exec (.sxBulkSystem dev records) s = .next { applyWrites (systemWrites records) s with result := some .ok } ∧
    exec (.sxBulkChannel dev records) s = .next { applyWrites (channelWrites records) s with result := some .ok } ∧
    exec (.sx [0x43] (dev :: 0x00 :: 0x03 :: records)) s = exec (.sxBulkSystem dev records) s ∧
    exec (.sx [0x43] (dev :: 0x00 :: 0x04 :: records)) s = exec (.sxBulkChannel dev records) s ∧
    (applyWrites (systemWrites records) s).ch = s.ch ∧ (applyWrites (channelWrites records) s).p = s.p ∧
    (applyWrites (systemWrites records) s).rt = s.rt ∧ (applyWrites (channelWrites records) s).rt = s.rt) ∧
  (∀ (w : FieldWrite) (s : State),
    applyWrites [w] s = writeField w.field w.bank (decodeValue (fieldTransform w.field) w.value) s) ∧
  (∀ (aH aL vH vL : Byte) (rest : List Byte) (w : FieldWrite),
    systemRecord (aH :: aL :: vH :: vL :: rest) = some w ↔
      ∃ f : SysField, aH = 0 ∧ aL = sysAddress f ∧ vH.toNat ≤ 127 ∧ vL.toNat ≤ 127 ∧
        w = ⟨.sys f, 0, vH.toNat * 128 + vL.toNat⟩) ∧
  (∀ (c aH aL vH vL : Byte) (rest : List Byte) (w : FieldWrite),
    channelRecord (c :: aH :: aL :: vH :: vL :: rest) = some w ↔
      ∃ f : ChField, c.toNat ≤ 15 ∧ aH = 0 ∧ aL = chAddress f ∧ vH.toNat ≤ 127 ∧ vL.toNat ≤ 127 ∧
        w = ⟨.ch f, c.toNat, vH.toNat * 128 + vL.toNat⟩)

/-! ## Bulk-dump encode -/

/-- ENC (30_encoding R147, 40_protocol R191): the message it returns, byte for byte, with nothing else changed; 140 and 1204
bytes, one record per row in ascending aL order; and in a legal state every byte after the vendor byte is a data byte. The value
bytes are those of R142's encode transforms, whose formulas O22 states. -/
def Obligations.DumpsFollowTheLayout : Prop :=
  ((sysFields.map fun f => (sysAddress f).toNat).Pairwise (· < ·) ∧ ∀ f : SysField, f ∈ sysFields) ∧
  ((chFields.map fun f => (chAddress f).toNat).Pairwise (· < ·) ∧ ∀ f : ChField, f ∈ chFields) ∧
  ∀ s : State, ∃ sysBytes chanBytes : List Byte,
    exec .encSys s = .next { s with result := some (.bytes (0x43 :: sysBytes)) } ∧
    exec .encChan s = .next { s with result := some (.bytes (0x43 :: chanBytes)) } ∧
    sysBytes = ([0x7F, 0x00, 0x03] : List Byte) ++ sysFields.flatMap (fun f =>
      [0x00, sysAddress f, BitVec.ofNat 8 (encodeValue Config.numerics (sysTransform f) (readSys s.p f) / 128),
        BitVec.ofNat 8 (encodeValue Config.numerics (sysTransform f) (readSys s.p f) % 128)]) ∧
    chanBytes = ([0x7F, 0x00, 0x04] : List Byte) ++ (List.finRange 16).flatMap (fun c => chFields.flatMap (fun f =>
      [BitVec.ofNat 8 c.val, 0x00, chAddress f, BitVec.ofNat 8 (encodeValue Config.numerics (chTransform f) (readCh s.ch[c] f) / 128),
        BitVec.ofNat 8 (encodeValue Config.numerics (chTransform f) (readCh s.ch[c] f) % 128)])) ∧
    sysBytes.length = 139 ∧ chanBytes.length = 1203 ∧
    (StateLegal Config.machine s → (∀ b ∈ sysBytes, b.toNat ≤ 127) ∧ (∀ b ∈ chanBytes, b.toNat ≤ 127))

/-- Round trip of the system scope (40_protocol R192): fed back through SX in any state, the system dump of a legal state
restores every system field to within half a quantisation step, exactly for IDX and BOOL fields, and leaves the channel banks
and the runtime state alone. -/
def Obligations.SystemDumpRoundTrips : Prop :=
  ∀ (s s' : State) (body : List Byte), StateLegal Config.machine s →
    exec .encSys s = .next { s with result := some (.bytes (0x43 :: body)) } →
    ∃ t, exec (sxInstr [0x43] body) s' = .next t ∧ t.ch = s'.ch ∧ t.rt = s'.rt ∧
      ∀ f : SysField, valueWithinStep (sysTransform f) (readSys t.p f) (readSys s.p f)

/-- Round trip of the per-channel scope (40_protocol R192): the same for every field of every bank, leaving P and the runtime
state alone. -/
def Obligations.ChannelDumpRoundTrips : Prop :=
  ∀ (s s' : State) (body : List Byte), StateLegal Config.machine s →
    exec .encChan s = .next { s with result := some (.bytes (0x43 :: body)) } →
    ∃ t, exec (sxInstr [0x43] body) s' = .next t ∧ t.p = s'.p ∧ t.rt = s'.rt ∧
      ∀ (c : Fin 16) (f : ChField), valueWithinStep (chTransform f) (readCh t.ch[c] f) (readCh s.ch[c] f)

/-! ## Snapshot and reset -/

/-- GET (40_protocol R195): the result is the snapshot (P, CH[0..15]), and nothing else changes; right after RST it is the
reset values of 10_state R21 to R69, written out. -/
def Obligations.GetReturnsTheSnapshot : Prop :=
  (∀ s : State, exec .get s = .next { s with result := some (.snapshot ⟨s.p, s.ch⟩) }) ∧
  (∀ s t : State, exec .rst s = .next t →
    exec .get t = .next { t with result := some (.snapshot
      { p :=
        { reverb := { time := 5 / 2, preDelay := 0, hfDamping := 1 / 2, density := 1 / 2, level := 1 / 2 }
          chorus := { rate := 1, depth := 1 / 2, feedback := 0, crossFeedback := 0, baseDelay := 1 / 100, output := 1 / 2,
                      level := 1 / 2 }
          variation := { typeId := 0, param1 := 1 / 2, param2 := 1 / 2, param3 := 1 / 2, param4 := 1 / 2, level := 1,
                         bypass := true }
          eq := { lowGain := 0, midGain := 0, highGain := 0, midFreq := 1000, midQ := 1 }
          routing := { effectOrder := 0, sendReverbToChorus := 0, sendReverbToVariation := 0, sendChorusToReverb := 0,
                       sendChorusToVariation := 0, sendVariationToReverb := 0, sendVariationToChorus := 0 }
          global := { masterLevel := 4 / 5, bypass := false, currentChannel := 0 } }
        ch := Vector.replicate 16
          { insType := 0, insParam1 := 1 / 2, insParam2 := 1 / 2, insParam3 := 1 / 2, insParam4 := 1 / 2, insLevel := 1,
            insBypass := true, reverbSend := 1 / 4, chorusSend := 0, variationSend := 0, insertionSend := 0, pan := 1 / 2,
            volume := 1, mute := false, solo := false } }) })

/-- SET (40_protocol R196): each field takes its operand clamped into the legal range (a flag as it is), the runtime state is
unchanged, and SET of what GET returns changes nothing in a legal state. -/
def Obligations.SetStoresLegalValues : Prop :=
  (∀ (snap : Snapshot) (s : State), ∃ t, exec (.set snap) s = .next t ∧ t.rt = s.rt ∧ t.port = s.port ∧
    t.result = some .ok ∧
    (∀ f : SysField, readSys t.p f = legalValue (sysTransform f) (readSys snap.p f)) ∧
    (∀ (c : Fin 16) (f : ChField), readCh t.ch[c] f = legalValue (chTransform f) (readCh snap.ch[c] f))) ∧
  (∀ (lo hi : Scalar) (x : Value), legalValue (.lin lo hi) x = .real (min hi (max lo x.toReal))) ∧
  (∀ x : Value, legalValue .pan x = .real (min 1 (max 0 x.toReal))) ∧
  (∀ (m : Nat) (x : Value), (legalValue (.idx m) x : Value) = .index (min (m : Int) (max 0 x.toIndex))) ∧
  (∀ b : Bool, (legalValue .bool (.flag b) : Value) = .flag b) ∧
  (∀ s : State, StateLegal Config.machine s →
    exec (.set ⟨s.p, s.ch⟩) s = .next { s with result := some .ok })

/-- RST (40_protocol R197) and construction (70_reset_and_hazards R400 to R402): P, CH and S take the values of the
constructed block, in a block with any parameters, which stay, over any numbers with any arithmetic (93_implementation_defined
U7); the result is OK; twice is once; only RST and PROC change the runtime state; and the reset values written out: P and CH
(10_state R21 to R69), every ring element, pointer, history, envelope, gate gain and hold count 0, the phases 0 but
CHORUS_R_PHASE0 = π/2, the external records ExtInit (10_state R74 to R81). In the reference block π/2 is the real number, in
radians. That RST leaves the items on the port is the model's choice (notes/assumptions/7.md), and so is the machine's unit of
angles, the half turn, in which π is 1 and π/2 is 1/2 (notes/assumptions/3.md). -/
def Obligations.ResetRestoresTheConstructedState : Prop :=
  (∀ s : State, exec .rst s =
    .next { State.reset with port := s.port, result := some .ok }) ∧
  (∀ (K : Type) [Zero K] [One K] [Add K] [Sub K] [Mul K] [Div K] [Neg K] [NatCast K] [IntCast K] [Max K] [Min K]
    [LT K] [DecidableLT K] [DecidableEq K] (cfg : Config K) (s : State K),
    execFor cfg .rst s = .next { State.resetWith cfg with port := s.port, result := some .ok }) ∧
  (∀ s t : State, exec .rst s = .next t → exec .rst t = .next t) ∧
  (∀ (i : Instr) (s t : State), exec i s = .next t → t.rt ≠ s.rt →
    i = .rst ∨ ∃ frames levels, i = .proc frames levels) ∧
  State.reset.p =
        { reverb := { time := 5 / 2, preDelay := 0, hfDamping := 1 / 2, density := 1 / 2, level := 1 / 2 }
          chorus := { rate := 1, depth := 1 / 2, feedback := 0, crossFeedback := 0, baseDelay := 1 / 100, output := 1 / 2,
                      level := 1 / 2 }
          variation := { typeId := 0, param1 := 1 / 2, param2 := 1 / 2, param3 := 1 / 2, param4 := 1 / 2, level := 1,
                         bypass := true }
          eq := { lowGain := 0, midGain := 0, highGain := 0, midFreq := 1000, midQ := 1 }
          routing := { effectOrder := 0, sendReverbToChorus := 0, sendReverbToVariation := 0, sendChorusToReverb := 0,
                       sendChorusToVariation := 0, sendVariationToReverb := 0, sendVariationToChorus := 0 }
          global := { masterLevel := 4 / 5, bypass := false, currentChannel := 0 } } ∧
  (∀ c : Fin 16, State.reset.ch[c] =
          { insType := 0, insParam1 := 1 / 2, insParam2 := 1 / 2, insParam3 := 1 / 2, insParam4 := 1 / 2, insLevel := 1,
            insBypass := true, reverbSend := 1 / 4, chorusSend := 0, variationSend := 0, insertionSend := 0, pan := 1 / 2,
            volume := 1, mute := false, solo := false }) ∧
  (Config.machine.num.pi = 1 ∧ Config.machine.chorusRPhase0 = ⟨1 / 2⟩ ∧
    ∀ (divByZero : ℝ → ℝ) (ext : ExtProcs ℝ), (Config.reference divByZero ext).chorusRPhase0 = ⟨Real.pi / 2⟩) ∧
  ∀ (K : Type) [Zero K] [One K] [Add K] [Sub K] [Mul K] [Div K] [Neg K] [NatCast K] [IntCast K] [Max K] [Min K]
    [LT K] [DecidableLT K] [DecidableEq K] (cfg : Config K) (rt : Runtime K),
    rt = (State.resetWith cfg).rt →
    (∀ i : Int, ringRead cfg.pdCap rt.rv.pd.buf i = 0) ∧ rt.rv.pd.w = 0 ∧
    (∀ (k : Fin 8) (i : Int), ringRead cfg.combCap rt.rv.comb[k].buf i = 0 ∧ rt.rv.comb[k].w = 0) ∧
    (∀ (j : Fin 4) (i : Int), ringRead cfg.apLen[j] rt.rv.ap[j].buf i = 0 ∧ rt.rv.ap[j].w = 0) ∧
    (∀ i : Int, ringRead cfg.chorusCap rt.chorus.bufL i = 0 ∧ ringRead cfg.chorusCap rt.chorus.bufR i = 0) ∧
    rt.chorus.w = 0 ∧ rt.chorus.phL = ⟨0⟩ ∧ rt.chorus.phR = cfg.chorusRPhase0 ∧
    rt.eq = ⟨⟨⟨0, 0, 0, 0⟩, ⟨0, 0, 0, 0⟩, ⟨0, 0, 0, 0⟩⟩, ⟨⟨0, 0, 0, 0⟩, ⟨0, 0, 0, 0⟩, ⟨0, 0, 0, 0⟩⟩⟩ ∧
    ∀ sl : Slot K, (sl = rt.variation ∨ ∃ c : Fin 16, sl = rt.insertion[c]) →
      (∀ i : Int, ringRead cfg.flangerCap sl.flanger.bufL i = 0 ∧ ringRead cfg.flangerCap sl.flanger.bufR i = 0) ∧
      sl.flanger.w = 0 ∧ sl.flanger.ph = ⟨0⟩ ∧ sl.compressor = ⟨0⟩ ∧ sl.gate = ⟨0, 0⟩ ∧
      ∀ t : Fin 123, sl.ext[t] = cfg.ext.init (t.val + 5)

/-- Totality of the codec (40_protocol R198) and the results of 30_encoding R137: every command but PROC returns its kind of
result, never ERROR; PROC returns 16 frames or ERROR. -/
def Obligations.CodecNeverReturnsAnError : Prop :=
  ∀ (i : Instr) (s : State), ∃ t, exec i s = .next t ∧
    match i with
    | .encSys => ∃ out, t.result = some (.bytes out)
    | .encChan => ∃ out, t.result = some (.bytes out)
    | .get => ∃ snap, t.result = some (.snapshot snap)
    | .proc _ _ => (∃ out, t.result = some (.frames out)) ∨ ∃ code, t.result = some (.error code)
    | _ => t.result = some .ok

/-! ## State -/

/-- Construction and the state after reset (10_state R83, 70_reset_and_hazards R400, R401, R403): parameters that meet the
constraints of 00_scope R7 (with capacities of at least 1, 20_memory R100, and an initial phase in [0, 2π), 10_state R75) build
a block, no others do; the block begins in a legal state; and the third column of R7 builds the machine, and over the reals the
reference block (00_scope R9), and over binary64 numbers the binary64 block (IEEE-754's arithmetic is PRESUMED,
notes/assumptions/21.md). -/
def Obligations.ResetStateIsLegal : Prop :=
  (∀ (K : Type) [Field K] [LinearOrder K] [IsStrictOrderedRing K] [FloorRing K] (cfg : Config K) (s : State K),
    construct cfg = some s ↔
      (cfg.admissible = true ∧ 1 ≤ cfg.pdCap ∧ 1 ≤ cfg.combCap ∧ 1 ≤ cfg.chorusCap ∧ 1 ≤ cfg.flangerCap ∧
        phaseLegal cfg.num cfg.chorusRPhase0) ∧ s = State.resetWith cfg) ∧
  (∀ (K : Type) [Field K] [LinearOrder K] [IsStrictOrderedRing K] [FloorRing K] (cfg : Config K) (s : State K),
    construct cfg = some s → StateLegal cfg s) ∧
  construct Config.machine = some State.reset ∧ StateLegal Config.machine State.reset ∧
  (∀ (divByZero : ℝ → ℝ) (ext : ExtProcs ℝ),
    construct (Config.reference divByZero ext) = some (referenceReset divByZero ext) ∧
    StateLegal (Config.reference divByZero ext) (referenceReset divByZero ext)) ∧
  ∀ (f : Functions Binary64) (floorOther : Binary64 → Int) (ext : ExtProcs Binary64),
    binary64Construct (Config.binary64 f floorOther ext) =
      some (Binary64.arithmetic (State.resetWith (Config.binary64 f floorOther ext)))

/-- Every step keeps the state legal (10_state R71, R74, R75, R78, 20_memory R100), in the machine and in every block that can
be built, over any ordered field with exact arithmetic and so over the reals (00_scope R9): every register in its legal range,
every ring pointer below its capacity, every LFO phase in [0, 2π), every ring memory in its canonical form (the model's
representation, notes/assumptions/14.md). -/
def Obligations.EveryStepKeepsTheStateLegal : Prop :=
  (∀ s t : State, StateLegal Config.machine s → step s = .next t → StateLegal Config.machine t) ∧
  (∀ (K : Type) [Field K] [LinearOrder K] [IsStrictOrderedRing K] [FloorRing K] (cfg : Config K) (s t : State K),
    cfg.num.IsExact → cfg.valid = true → StateLegal cfg s → stepFor cfg s = .next t → StateLegal cfg t)

/-- The followers stay in range (10_state R79, R80; 46_dynamics R351, R352, R356): for every configuration whose exp maps the
negative numbers into [0, 1], and so for the reference block, a frame keeps every envelope at least 0 and every gate gain in
[0, 1]. -/
def Obligations.FollowersStayInRange : Prop :=
  (∀ (K : Type) [Field K] [LinearOrder K] [IsStrictOrderedRing K] [FloorRing K] (cfg : Config K) (p : Params K)
    (ch : Vector (Channel K) 16) (frames : List (Stereo K)) (levels : List K) (rt : Runtime K),
    0 < cfg.fs → (∀ x : K, x < 0 → 0 ≤ cfg.num.exp x ∧ cfg.num.exp x ≤ 1) →
    paramsLegal p → (∀ c : Fin 16, channelLegal ch[c]) → allFollowersLegal rt →
    allFollowersLegal (processFrame cfg p ch frames levels rt).rt) ∧
  ∀ (divByZero : ℝ → ℝ) (ext : ExtProcs ℝ) (p : Params ℝ) (ch : Vector (Channel ℝ) 16) (frames : List (Stereo ℝ))
    (levels : List ℝ) (rt : Runtime ℝ), paramsLegal p → (∀ c : Fin 16, channelLegal ch[c]) → allFollowersLegal rt →
    allFollowersLegal (processFrame (Config.reference divByZero ext) p ch frames levels rt).rt

/-- The runtime state is written only by PROC and RST, P and CH only by PU, SX, SET and RST (10_state R71,
70_reset_and_hazards R412), a write to a system field leaves every bank and one to a channel field P. That no command, RST
included, touches the items on the port is the model's choice (notes/assumptions/7.md). -/
def Obligations.EveryRegisterHasItsWriters : Prop :=
  (∀ (i : Instr) (s t : State), exec i s = .next t →
    t.port = s.port ∧ (t.rt = s.rt ∨ i = .rst ∨ ∃ frames levels, i = .proc frames levels) ∧
    ((i = .encSys ∨ i = .encChan ∨ i = .get ∨ ∃ frames levels, i = .proc frames levels) → t.p = s.p ∧ t.ch = s.ch)) ∧
  (∀ (f : SysField) (ch vH vL : Byte) (s t : State), exec (paramInstr (.sys f) ch vH vL) s = .next t → t.ch = s.ch) ∧
  (∀ (f : ChField) (ch vH vL : Byte) (s t : State), exec (paramInstr (.ch f) ch vH vL) s = .next t → t.p = s.p)

/-! ## Ring memories -/

/-- RingRead, RingWrite and Advance (20_memory R101): a read finds the last value written at its residue and the old value
elsewhere; the pointer moves by one modulo the capacity. That the canonical form is kept is about the model's own
representation of a ring (notes/assumptions/14.md). -/
def Obligations.RingReadsWhatWasWritten : Prop :=
  ∀ (K : Type) [Zero K] [One K] [Add K] [Sub K] [Mul K] [Div K] [Neg K] [NatCast K] [IntCast K] [Max K] [Min K]
    [LT K] [DecidableLT K] [DecidableEq K],
  ∀ (cap : Nat) (b : RingMemory K) (i j : Int) (v : K), 0 < cap → ringWf cap b = true →
    ringRead cap (ringWrite cap b i v) j = (if j % (cap : Int) = i % (cap : Int) then v else ringRead cap b j) ∧
    ringRead cap b (i + cap) = ringRead cap b i ∧
    ringWf cap (ringWrite cap b i v) = true ∧
    ∀ w : Nat, advance cap w = (w + 1) % cap ∧ advance cap w < cap

/-- FracRead (20_memory R103), with exact arithmetic (00_scope R9): between two neighbours the read is the linear
interpolation; an integer delay reads one sample; a delay below 1 or above cap − 2 is clamped. -/
def Obligations.FractionalReadInterpolates : Prop :=
  ∀ (K : Type) [Field K] [LinearOrder K] [IsStrictOrderedRing K] [FloorRing K],
  ∀ (n : Numerics K) (cap : Nat) (b : RingMemory K) (w : Nat), n.IsExact → 3 ≤ cap →
    (∀ (i : Nat) (f : K), 1 ≤ i → 0 ≤ f → f < 1 → (i : K) + f ≤ (cap : K) - 2 →
      fracRead n cap b w (i + f) =
        (1 - f) * ringRead cap b ((w : Int) - i) + f * ringRead cap b ((w : Int) - i - 1)) ∧
    (∀ i : Nat, 1 ≤ i → i + 2 ≤ cap → fracRead n cap b w i = ringRead cap b ((w : Int) - i)) ∧
    (∀ d : K, d ≤ 1 → fracRead n cap b w d = ringRead cap b ((w : Int) - 1)) ∧
    (∀ d : K, (cap : K) - 2 ≤ d → fracRead n cap b w d = ringRead cap b ((w : Int) - ((cap : Int) - 2)))

/-- DelayRead (20_memory R104): it is RingRead at w − L, and with w the element about to be written it returns the sample
written L frames ago for 1 ≤ L ≤ cap, the sample about to be overwritten when L = cap. -/
def Obligations.DelayedSampleComesBack : Prop :=
  ∀ (K : Type) [Zero K] [One K] [Add K] [Sub K] [Mul K] [Div K] [Neg K] [NatCast K] [IntCast K] [Max K] [Min K]
    [LT K] [DecidableLT K] [DecidableEq K],
  (∀ (cap : Nat) (b : RingMemory K) (w len : Nat), delayRead cap b w len = ringRead cap b ((w : Int) - len)) ∧
  ∀ (cap : Nat) (line : Line K) (v : K) (later : List K), ringWf cap line.buf = true → line.w < cap →
    later.length < cap →
    delayRead cap ((v :: later).foldl (pushLine cap) line).buf ((v :: later).foldl (pushLine cap) line).w
      (later.length + 1) = v

/-! ## PROC -/

/-- The input contract and ContractError (41_mixing R221, 60_exceptions R381, R382): nF ≠ 16 gives ERROR(1), whatever nLv is;
nF = 16 with nLv not 0 or 16 gives ERROR(2); P, CH and S are exactly as before. -/
def Obligations.WrongCountsRaiseContractErrors : Prop :=
  ∀ (frames : List Stereo) (levels : List Scalar) (s : State),
    (frames.length ≠ 16 →
      exec (.proc frames levels) s = .next { s with result := some (.error .frameCount) }) ∧
    (frames.length = 16 → levels.length ≠ 0 → levels.length ≠ 16 →
      exec (.proc frames levels) s = .next { s with result := some (.error .levelCount) })

/-- PROC with 16 frames and 0 or 16 levels (41_mixing R220, R225 to R230), in a block with any parameters over any numbers
with any arithmetic (00_scope R7, R9; 93_implementation_defined U7): the insertion stage of each active channel, the system
bus (summed in channel order), the system stage, and each channel's output in both pan modes; inactive channels are silent and
their slots are as before; P, CH and the port are as before. The machine's PROC is that of the block with R7's parameters,
whose pan mode is MONO_SUM. -/
def Obligations.ProcMixesEveryChannel : Prop :=
  (∀ (K : Type) [Zero K] [One K] [Add K] [Sub K] [Mul K] [Div K] [Neg K] [NatCast K] [IntCast K] [Max K] [Min K]
    [LT K] [DecidableLT K] [DecidableEq K],
  ∀ (cfg : Config K) (frames : List (Stereo K)) (levels : List K) (s : State K),
    frames.length = 16 → (levels.length = 0 ∨ levels.length = 16) →
    ∃ (t : State K) (out : Vector (Stereo K) 16) (sys : Stereo K) (bus : K),
      execFor cfg (.proc frames levels) s = .next t ∧ t.result = some (.frames out) ∧
      t.p = s.p ∧ t.ch = s.ch ∧ t.port = s.port ∧
      bus = ((List.finRange 16).map (fun c : Fin 16 =>
        if isActive s.ch s.ch[c] then
          (1 - s.ch[c].insertionSend) * (levels.getD c.val 1) * s.ch[c].reverbSend *
            ((frames.getD c.val silence).l + (frames.getD c.val silence).r)
        else 0)).foldl (· + ·) 0 ∧
      (∀ c : Fin 16, isActive s.ch s.ch[c] = false →
        out[c] = ⟨0, 0⟩ ∧ t.rt.insertion[c] = s.rt.insertion[c]) ∧
      (∀ (c : Fin 16) (y : Stereo K) (gL gR : K), isActive s.ch s.ch[c] = true →
        y = addFrame (insertionStage cfg s.ch[c] s.rt.insertion[c] (frames.getD c.val silence)).1
          (scaleFrame s.ch[c].reverbSend sys) →
        gL = s.ch[c].volume * (1 - s.ch[c].pan) → gR = s.ch[c].volume * s.ch[c].pan →
        t.rt.insertion[c] = (insertionStage cfg s.ch[c] s.rt.insertion[c] (frames.getD c.val silence)).2 ∧
        (cfg.panMode = .monoSum →
          out[c].l = s.p.global.masterLevel * (gL * (y.l + y.r)) ∧
          out[c].r = s.p.global.masterLevel * (gR * (y.l + y.r))) ∧
        (cfg.panMode = .perSide →
          out[c].l = s.p.global.masterLevel * (gL * y.l) ∧ out[c].r = s.p.global.masterLevel * (gR * y.r))) ∧
      ((s.p.global.bypass = true ∨ ∀ c : Fin 16, isActive s.ch s.ch[c] = false) →
        sys = ⟨0, 0⟩ ∧ t.rt.rv = s.rt.rv ∧ t.rt.chorus = s.rt.chorus ∧ t.rt.eq = s.rt.eq ∧
        t.rt.variation = s.rt.variation) ∧
      (s.p.global.bypass = false → (∃ c : Fin 16, isActive s.ch s.ch[c] = true) →
        (sys, t.rt) = route cfg s.p ⟨bus, bus⟩ { s.rt with insertion := t.rt.insertion })) ∧
  Config.machine.panMode = .monoSum ∧
  ∀ (frames : List Stereo) (levels : List Scalar) (s : State),
    frames.length = 16 → (levels.length = 0 ∨ levels.length = 16) →
    ∃ t : State, exec (.proc frames levels) s = .next t ∧ execFor Config.machine (.proc frames levels) s = .next t

/-- The active set (41_mixing R222): the soloed channels if any channel is soloed, muted or not; else the channels not
muted. -/
def Obligations.ActiveSetFollowsSoloAndMute : Prop :=
  ∀ (K : Type) [Zero K] [One K] [Add K] [Sub K] [Mul K] [Div K] [Neg K] [NatCast K] [IntCast K] [Max K] [Min K]
    [LT K] [DecidableLT K] [DecidableEq K],
  ∀ (ch : Vector (Channel K) 16) (c : Fin 16),
    ((∃ d : Fin 16, ch[d].solo = true) → isActive ch ch[c] = ch[c].solo) ∧
    ((∀ d : Fin 16, ch[d].solo = false) → isActive ch ch[c] = !ch[c].mute)

/-- The two slot effects and their bypasses (41_mixing R223, 43_registry R277): with a positive send and no bypass the insertion
stage is the send times the slot's run and the slot advances, otherwise it is the dry input and the slot is as before; a
bypassed variation is silent and its slot does not advance, otherwise it is its slot's run. -/
def Obligations.BypassedSlotsDoNotRun : Prop :=
  ∀ (K : Type) [Zero K] [One K] [Add K] [Sub K] [Mul K] [Div K] [Neg K] [NatCast K] [IntCast K] [Max K] [Min K]
    [LT K] [DecidableLT K] [DecidableEq K],
  ∀ (cfg : Config K) (bank : Channel K) (p : VariationParams K) (slot : Slot K) (x : Stereo K),
    (0 < bank.insertionSend → bank.insBypass = false → ∀ y, y = slotRun cfg slot bank.insType
        ⟨bank.insParam1, bank.insParam2, bank.insParam3, bank.insParam4⟩ bank.insLevel x →
      insertionStage cfg bank slot x = (scaleFrame bank.insertionSend y.1, y.2)) ∧
    (¬ 0 < bank.insertionSend ∨ bank.insBypass = true → insertionStage cfg bank slot x = (x, slot)) ∧
    (p.bypass = true → fxVariation cfg p slot x = (⟨0, 0⟩, slot)) ∧
    (p.bypass = false → fxVariation cfg p slot x =
      slotRun cfg slot p.typeId ⟨p.param1, p.param2, p.param3, p.param4⟩ p.level x)

/-- Silence (41_mixing R233): from a runtime state whose rings, followers and filters are 0, silent input gives 16 silent
frames and such a state again, for every configuration whose 10^x is nowhere negative, and so for the reference block, while no
type outside the block runs. -/
def Obligations.SilenceStaysSilent : Prop :=
  (∀ (K : Type) [Field K] [LinearOrder K] [IsStrictOrderedRing K] [FloorRing K] (cfg : Config K) (p : Params K)
    (ch : Vector (Channel K) 16) (levels : List K) (rt : Runtime K),
    (∀ x : K, 0 ≤ cfg.num.pow10 x) → OnlyBlockTypes p ch → RuntimeQuiet rt →
    (∀ c : Fin 16, (processFrame cfg p ch (List.replicate 16 ⟨0, 0⟩) levels rt).out[c] = ⟨0, 0⟩) ∧
    RuntimeQuiet (processFrame cfg p ch (List.replicate 16 ⟨0, 0⟩) levels rt).rt) ∧
  ∀ (divByZero : ℝ → ℝ) (ext : ExtProcs ℝ) (p : Params ℝ) (ch : Vector (Channel ℝ) 16) (levels : List ℝ) (rt : Runtime ℝ),
    OnlyBlockTypes p ch → RuntimeQuiet rt →
    (∀ c : Fin 16,
      (processFrame (Config.reference divByZero ext) p ch (List.replicate 16 ⟨0, 0⟩) levels rt).out[c] = ⟨0, 0⟩) ∧
    RuntimeQuiet (processFrame (Config.reference divByZero ext) p ch (List.replicate 16 ⟨0, 0⟩) levels rt).rt

/-! ## Routing and the equalizer -/

/-- Each system effect reads and writes only its own state (10_state R82, 42_routing_eq R245, R258): the others, the equalizer
and the insertion slots are as before, and neither its output nor its own next state depends on them. -/
def Obligations.EffectsKeepToTheirOwnState : Prop :=
  ∀ (K : Type) [Zero K] [One K] [Add K] [Sub K] [Mul K] [Div K] [Neg K] [NatCast K] [IntCast K] [Max K] [Min K]
    [LT K] [DecidableLT K] [DecidableEq K],
  ∀ (cfg : Config K) (p : Params K) (x : Stereo K) (rt rt' : Runtime K),
    (effectStep cfg p .reverb x rt).2 = { rt with rv := (effectStep cfg p .reverb x rt).2.rv } ∧
    (effectStep cfg p .chorus x rt).2 = { rt with chorus := (effectStep cfg p .chorus x rt).2.chorus } ∧
    (effectStep cfg p .variation x rt).2 = { rt with variation := (effectStep cfg p .variation x rt).2.variation } ∧
    (rt.rv = rt'.rv → (effectStep cfg p .reverb x rt).1 = (effectStep cfg p .reverb x rt').1 ∧
      (effectStep cfg p .reverb x rt).2.rv = (effectStep cfg p .reverb x rt').2.rv) ∧
    (rt.chorus = rt'.chorus → (effectStep cfg p .chorus x rt).1 = (effectStep cfg p .chorus x rt').1 ∧
      (effectStep cfg p .chorus x rt).2.chorus = (effectStep cfg p .chorus x rt').2.chorus) ∧
    (rt.variation = rt'.variation → (effectStep cfg p .variation x rt).1 = (effectStep cfg p .variation x rt').1 ∧
      (effectStep cfg p .variation x rt).2.variation = (effectStep cfg p .variation x rt').2.variation)

/-- The effect order, the sends and one turn of Route (42_routing_eq R241 to R244, 30_encoding R149): each index selects its
row of the permutation table; the send of an ordered pair of effects is the routing field of that pair; with a positive
outgoing send s the effect's input is (1 − s)·in and the next input is s·y; with send 0 they are `in` and the accumulated
output; the effect's output is added once either way. -/
def Obligations.RouteFollowsOrderAndSends : Prop :=
  ∀ (K : Type) [Zero K] [One K] [Add K] [Sub K] [Mul K] [Div K] [Neg K] [NatCast K] [IntCast K] [Max K] [Min K]
    [LT K] [DecidableLT K] [DecidableEq K],
  (effectOrder 0 = ⟨.reverb, .chorus, .variation⟩ ∧ effectOrder 1 = ⟨.reverb, .variation, .chorus⟩ ∧
    effectOrder 2 = ⟨.chorus, .reverb, .variation⟩ ∧ effectOrder 3 = ⟨.chorus, .variation, .reverb⟩ ∧
    effectOrder 4 = ⟨.variation, .reverb, .chorus⟩ ∧ effectOrder 5 = ⟨.variation, .chorus, .reverb⟩) ∧
  (∀ r : RoutingParams K,
    effectSend r .reverb .chorus = r.sendReverbToChorus ∧ effectSend r .reverb .variation = r.sendReverbToVariation ∧
    effectSend r .chorus .reverb = r.sendChorusToReverb ∧ effectSend r .chorus .variation = r.sendChorusToVariation ∧
    effectSend r .variation .reverb = r.sendVariationToReverb ∧ effectSend r .variation .chorus = r.sendVariationToChorus) ∧
  ∀ (cfg : Config K) (p : Params K) (e : Effect) (s : K) (inp out : Stereo K) (rt : Runtime K),
    (0 < s → ∀ y, y = effectStep cfg p e ⟨(1 - s) * inp.l, (1 - s) * inp.r⟩ rt →
      routeStage cfg p e s ⟨inp, out, rt⟩ =
        ⟨⟨s * y.1.l, s * y.1.r⟩, ⟨out.l + y.1.l, out.r + y.1.r⟩, y.2⟩) ∧
    (¬ 0 < s → ∀ y, y = effectStep cfg p e inp rt →
      routeStage cfg p e s ⟨inp, out, rt⟩ =
        ⟨⟨out.l + y.1.l, out.r + y.1.r⟩, ⟨out.l + y.1.l, out.r + y.1.r⟩, y.2⟩)

/-- Route (42_routing_eq R240, R246) in every order and with every send: the effects run once each in the order's sequence; an
effect with a positive outgoing send s takes (1 − s) of its input and feeds s of its raw output to the next, with a send of 0 it
takes its input whole and the next takes the accumulated output; the last takes its input whole; the result is EQ of the sum of
the three outputs. And the rule's example: in order 0 with all sends 0, Route(b) = EQ(yR + yC + yV) with yR = Reverb(b),
yC = Chorus(yR), yV = Variation(yR + yC). -/
def Obligations.SerialRouteAddsTheEffects : Prop :=
  ∀ (K : Type) [Field K] [LinearOrder K] [IsStrictOrderedRing K] [FloorRing K],
  (∀ (cfg : Config K) (p : Params K) (b x0 x1 x2 : Stereo K) (rt : Runtime K) (e0 e1 e2 : Effect) (s0 s1 : K)
    (y0 y1 y2 : Stereo K × Runtime K), 0 ≤ s0 → 0 ≤ s1 →
    effectOrder p.routing.effectOrder = ⟨e0, e1, e2⟩ →
    s0 = effectSend p.routing e0 e1 → s1 = effectSend p.routing e1 e2 →
    x0 = b → y0 = effectStep cfg p e0 ⟨(1 - s0) * x0.l, (1 - s0) * x0.r⟩ rt →
    x1 = (if s0 = 0 then y0.1 else ⟨s0 * y0.1.l, s0 * y0.1.r⟩) →
    y1 = effectStep cfg p e1 ⟨(1 - s1) * x1.l, (1 - s1) * x1.r⟩ y0.2 →
    x2 = (if s1 = 0 then ⟨y0.1.l + y1.1.l, y0.1.r + y1.1.r⟩ else ⟨s1 * y1.1.l, s1 * y1.1.r⟩) →
    y2 = effectStep cfg p e2 x2 y1.2 →
    ∀ out : Stereo K × EqState K,
      out = equalize cfg p.eq rt.eq ⟨y0.1.l + y1.1.l + y2.1.l, y0.1.r + y1.1.r + y2.1.r⟩ →
      route cfg p b rt = (out.1, { y2.2 with eq := out.2 })) ∧
  (∀ (cfg : Config K) (p : Params K) (b yR yC yV : Stereo K) (rt : Runtime K) (rv : ReverbState K) (cho : ChorusState K)
    (sl : Slot K),
    p.routing = ⟨0, 0, 0, 0, 0, 0, 0⟩ →
    fxReverb cfg p.reverb rt.rv b = (yR, rv) → fxChorus cfg p.chorus rt.chorus yR = (yC, cho) →
    fxVariation cfg p.variation rt.variation (addFrame yR yC) = (yV, sl) →
    route cfg p b rt =
      ((equalize cfg p.eq rt.eq (addFrame (addFrame yR yC) yV)).1,
       { rt with rv := rv, chorus := cho, variation := sl,
                 eq := (equalize cfg p.eq rt.eq (addFrame (addFrame yR yC) yV)).2 }))

/-- The equalizer (42_routing_eq R250 to R257): each side is the cascade low, mid, high; a band is a direct-form-I biquad; its
coefficients are those of the low shelf, the peaking band and the high shelf at any gain, divided by a0; and at 0 dB: where
10^0 = 1 and no a0 is 0, with all three gains 0 dB and histories whose outputs equal their inputs, a side is the identity and
leaves such histories. In the reference block (00_scope R9) every a0 is positive for every gain, frequency in (0, fs/2) and
positive Q, the angle is 2π·f0/fs radians, and with the three gains 0 dB the equalizer is the identity from its reset state. -/
def Obligations.EqualizerIsTheIdentityAtZeroGain : Prop :=
  (∀ (K : Type) [Field K] [LinearOrder K] [IsStrictOrderedRing K] [FloorRing K],
  (∀ (cfg : Config K) (p : EqParams K) (st : EqSide K) (u : K), cfg.num.pow10 0 = 1 →
    p.lowGain = 0 → p.midGain = 0 → p.highGain = 0 →
    (lowShelf cfg 0 cfg.eqLowFreq).a0 ≠ 0 → (peaking cfg 0 p.midFreq p.midQ).a0 ≠ 0 →
    (highShelf cfg 0 cfg.eqHighFreq).a0 ≠ 0 →
    (st.low.x1 = st.low.y1 ∧ st.low.x2 = st.low.y2) → (st.mid.x1 = st.mid.y1 ∧ st.mid.x2 = st.mid.y2) →
    (st.high.x1 = st.high.y1 ∧ st.high.x2 = st.high.y2) →
    eqSide cfg p st u =
      (u, ⟨⟨u, st.low.x1, u, st.low.x1⟩, ⟨u, st.mid.x1, u, st.mid.x1⟩, ⟨u, st.high.x1, u, st.high.x1⟩⟩)) ∧
  (∀ (cfg : Config K) (p : EqParams K) (st : EqState K) (u : Stereo K),
    equalize cfg p st u =
      (⟨(eqSide cfg p st.left u.l).1, (eqSide cfg p st.right u.r).1⟩,
       ⟨(eqSide cfg p st.left u.l).2, (eqSide cfg p st.right u.r).2⟩)) ∧
  (∀ (cfg : Config K) (p : EqParams K) (st : EqSide K) (u : K) (low mid high : K × BiquadState K),
    low = biquad (normalise cfg (lowShelf cfg p.lowGain cfg.eqLowFreq)) st.low u →
    mid = biquad (normalise cfg (peaking cfg p.midGain p.midFreq p.midQ)) st.mid low.1 →
    high = biquad (normalise cfg (highShelf cfg p.highGain cfg.eqHighFreq)) st.high mid.1 →
    eqSide cfg p st u = (high.1, ⟨low.2, mid.2, high.2⟩)) ∧
  (∀ (cfg : Config K) (c : RawCoeffs K) (st : BiquadState K) (u y : K), c.a0 ≠ 0 →
    y = (c.b0 * u + c.b1 * st.x1 + c.b2 * st.x2 - c.a1 * st.y1 - c.a2 * st.y2) / c.a0 →
    biquad (normalise cfg c) st u = (y, ⟨u, st.x1, y, st.y1⟩)) ∧
  (∀ (cfg : Config K) (gain f0 q A cs sn al : K), A = cfg.num.pow10 (gain / 40) →
    cs = cfg.num.cos ⟨2 * cfg.num.pi * f0 / cfg.fs⟩ → sn = cfg.num.sin ⟨2 * cfg.num.pi * f0 / cfg.fs⟩ →
    (cfg.num.sqrt 2 ≠ 0 → al = sn / cfg.num.sqrt 2 →
      lowShelf cfg gain f0 =
        ⟨A * ((A + 1) - (A - 1) * cs + 2 * cfg.num.sqrt A * al), 2 * A * ((A - 1) - (A + 1) * cs),
         A * ((A + 1) - (A - 1) * cs - 2 * cfg.num.sqrt A * al), (A + 1) + (A - 1) * cs + 2 * cfg.num.sqrt A * al,
         -2 * ((A - 1) + (A + 1) * cs), (A + 1) + (A - 1) * cs - 2 * cfg.num.sqrt A * al⟩ ∧
      highShelf cfg gain f0 =
        ⟨A * ((A + 1) + (A - 1) * cs + 2 * cfg.num.sqrt A * al), -2 * A * ((A - 1) + (A + 1) * cs),
         A * ((A + 1) + (A - 1) * cs - 2 * cfg.num.sqrt A * al), (A + 1) - (A - 1) * cs + 2 * cfg.num.sqrt A * al,
         2 * ((A - 1) - (A + 1) * cs), (A + 1) - (A - 1) * cs - 2 * cfg.num.sqrt A * al⟩) ∧
    (q ≠ 0 → A ≠ 0 → al = sn / (2 * q) →
      peaking cfg gain f0 q = ⟨1 + al * A, -2 * cs, 1 - al * A, 1 + al / A, -2 * cs, 1 - al / A⟩))) ∧
  ∀ (divByZero : ℝ → ℝ) (ext : ExtProcs ℝ) (cfg : Config ℝ), cfg = Config.reference divByZero ext →
    (∀ gain f0 q : ℝ, 0 < f0 → f0 < cfg.fs / 2 → 0 < q →
      0 < (lowShelf cfg gain f0).a0 ∧ 0 < (peaking cfg gain f0 q).a0 ∧ 0 < (highShelf cfg gain f0).a0) ∧
    (∀ f0 : ℝ, cfg.num.cos (bandOmega cfg f0) = Real.cos (2 * Real.pi * f0 / cfg.fs) ∧
      cfg.num.sin (bandOmega cfg f0) = Real.sin (2 * Real.pi * f0 / cfg.fs)) ∧
    ∀ (p : Params ℝ) (u : Stereo ℝ), paramsLegal p → p.eq.lowGain = 0 → p.eq.midGain = 0 → p.eq.highGain = 0 →
      (equalize cfg p.eq ⟨resetEqSide, resetEqSide⟩ u).1 = u

/-! ## Reverb -/

/-- The reverb network past the predelay (44_reverb R296 to R303): mono input; a comb k < N returns the sample of L_k frames
ago, stores q + g_k·d at its pointer and nowhere else, and advances; a comb k ≥ N keeps its ring and its pointer and adds
nothing; the running combs are summed in index order without normalisation; an allpass with stored sample d gives d − AP_G·t,
stores t + AP_G·y at its pointer and nowhere else, and advances; four allpasses in index order; both output lanes are level
times the last. -/
def Obligations.CombsFeedBackWithinTheCount : Prop :=
  ∀ (K : Type) [Zero K] [One K] [Add K] [Sub K] [Mul K] [Div K] [Neg K] [NatCast K] [IntCast K] [Max K] [Min K]
    [LT K] [DecidableLT K] [DecidableEq K],
  (∀ (cfg : Config K) (p : ReverbParams K) (comb : Vector (Line K) 8) (q : K) (k : Fin 8), 0 < cfg.combCap →
    ringWf cfg.combCap comb[k].buf = true → comb[k].w < cfg.combCap →
    (combCount cfg p ≤ k.val → combLane cfg p comb q k = (0, comb[k])) ∧
    (k.val < combCount cfg p → ∀ (d : K), d = ringRead cfg.combCap comb[k].buf ((comb[k].w : Int) - combLength cfg p k.val) →
      (combLane cfg p comb q k).1 = d ∧
      (combLane cfg p comb q k).2.w = (comb[k].w + 1) % cfg.combCap ∧
      ∀ j : Nat, j < cfg.combCap → ringRead cfg.combCap (combLane cfg p comb q k).2.buf j =
        if j = comb[k].w then q + combGain cfg p k.val * d else ringRead cfg.combCap comb[k].buf j)) ∧
  (∀ (cfg : Config K) (j : Fin 4) (line : Line K) (t d y : K), 0 < cfg.apLen[j] →
    ringWf cfg.apLen[j] line.buf = true → line.w < cfg.apLen[j] →
    d = ringRead cfg.apLen[j] line.buf line.w → y = d - cfg.apG * t →
    (allpassStep cfg j line t).1 = y ∧
    (allpassStep cfg j line t).2.w = (line.w + 1) % cfg.apLen[j] ∧
    ∀ i : Nat, i < cfg.apLen[j] → ringRead cfg.apLen[j] (allpassStep cfg j line t).2.buf i =
      if i = line.w then t + cfg.apG * y else ringRead cfg.apLen[j] line.buf i) ∧
  (∀ (cfg : Config K) (p : ReverbParams K) (rv : ReverbState K) (x : Stereo K) (u t : K) (q a0 a1 a2 a3 : K × Line K),
    u = (x.l + x.r) / 2 → q = predelay cfg p rv.pd u →
    t = ((List.finRange 8).map fun k => if k.val < combCount cfg p then
      ringRead cfg.combCap rv.comb[k].buf ((rv.comb[k].w : Int) - combLength cfg p k.val) else 0).foldl (· + ·) 0 →
    a0 = allpassStep cfg 0 rv.ap[0] t → a1 = allpassStep cfg 1 rv.ap[1] a0.1 →
    a2 = allpassStep cfg 2 rv.ap[2] a1.1 → a3 = allpassStep cfg 3 rv.ap[3] a2.1 →
    (fxReverb cfg p rv x).1 = ⟨p.level * a3.1, p.level * a3.1⟩ ∧
    (fxReverb cfg p rv x).2.pd = q.2 ∧
    (∀ k : Fin 8, (fxReverb cfg p rv x).2.comb[k] = (combLane cfg p rv.comb q.1 k).2) ∧
    (fxReverb cfg p rv x).2.ap = #v[a0.2, a1.2, a2.2, a3.2])

/-- The predelay step (44_reverb R295): written before it is read, a length of 0 is no delay; a length n > 0 returns the sample
n frames old; the written sample stands at the pointer and the pointer advances. -/
def Obligations.PredelayWritesBeforeItReads : Prop :=
  ∀ (K : Type) [Zero K] [One K] [Add K] [Sub K] [Mul K] [Div K] [Neg K] [NatCast K] [IntCast K] [Max K] [Min K]
    [LT K] [DecidableLT K] [DecidableEq K],
  ∀ (cfg : Config K) (p : ReverbParams K) (pd : Line K) (u : K), ringWf cfg.pdCap pd.buf = true → pd.w < cfg.pdCap →
    (predelay cfg p pd u).2 = ⟨ringWrite cfg.pdCap pd.buf pd.w u, (pd.w + 1) % cfg.pdCap⟩ ∧
    ringRead cfg.pdCap (predelay cfg p pd u).2.buf pd.w = u ∧
    (predelayLength cfg p = 0 → (predelay cfg p pd u).1 = u) ∧
    (0 < predelayLength cfg p →
      (predelay cfg p pd u).1 = ringRead cfg.pdCap pd.buf ((pd.w : Int) - predelayLength cfg p))

/-- The derived quantities of the reverb (44_reverb R291, R292, R293, R294): their formulas under any parameters with exact
arithmetic; and for legal registers and the values of 00_scope R7, N in [4, 8], every L_k in [1, COMB_CAP − 1], Dp in [0,
PD_CAP − 1] and every g_k in [0.35, 0.84]. -/
def Obligations.ReverbQuantitiesAreInRange : Prop :=
  ∀ (K : Type) [Field K] [LinearOrder K] [IsStrictOrderedRing K] [FloorRing K],
  (∀ (cfg : Config K) (p : ReverbParams K) (k : Nat), cfg.num.IsExact →
    combGain cfg p k = (cfg.combG0 + cfg.combGStep * k) * (1 - cfg.combDamp * p.hfDamping) ∧
    (0 ≤ p.density → (combCount cfg p : Int) = min 8 (4 + ⌊4 * p.density⌋)) ∧
    (1 ≤ cfg.combCap →
      (combLength cfg p k : Int) = min ((cfg.combCap : Int) - 1) (max 1 ⌊cfg.fs * p.time * cfg.combK * (k + 1)⌋)) ∧
    (1 ≤ cfg.pdCap → (predelayLength cfg p : Int) = min ((cfg.pdCap : Int) - 1) (max 0 ⌊cfg.fs * p.preDelay⌋))) ∧
  (∀ (num : Numerics K) (ext : ExtProcs K) (cfg : Config K) (p : Params K) (k : Nat), cfg = Config.r7 num ext → num.IsExact →
    paramsLegal p → k < 8 →
    4 ≤ combCount cfg p.reverb ∧ combCount cfg p.reverb ≤ 8 ∧
    1 ≤ combLength cfg p.reverb k ∧ combLength cfg p.reverb k ≤ 16383 ∧ predelayLength cfg p.reverb ≤ 1023 ∧
    35 / 100 ≤ combGain cfg p.reverb k ∧ combGain cfg p.reverb k ≤ 84 / 100)

/-! ## Modulation -/

/-- LFO advance (45_chorus_moddelay R320, R322), over any numbers with exact arithmetic (00_scope R9), in the unit of the
block's angles: the phase moves by 2π·rate/fs less a multiple of 2π and stays in [0, 2π), and for a step below 2π it is
subtracting 2π once when the sum reaches it. Over the reals the unit is the radian: π is the real π, and sin and cos are those
of the phase; in the machine it is the half turn, which is the model's choice (notes/assumptions/3.md). -/
def Obligations.PhasesWrapAtTwoPi : Prop :=
  (∀ (K : Type) [Field K] [LinearOrder K] [IsStrictOrderedRing K] [FloorRing K],
  ∀ (cfg : Config K) (rate : K) (ph : Angle K) (twoPi : K), cfg.num.IsExact → twoPi = 2 * cfg.num.pi →
    (0 ≤ (advancePhase cfg rate ph).val ∧ (advancePhase cfg rate ph).val < twoPi) ∧
    (∃ k : Int, (advancePhase cfg rate ph).val = ph.val + twoPi * rate / cfg.fs - k * twoPi) ∧
    (∀ step : K, step = twoPi * rate / cfg.fs → 0 ≤ ph.val → ph.val < twoPi → 0 ≤ step → step < twoPi →
      (advancePhase cfg rate ph).val = if ph.val + step ≥ twoPi then ph.val + step - twoPi else ph.val + step)) ∧
  (∀ (divByZero : ℝ → ℝ) (cfg : Config ℝ) (rate : ℝ) (ph : Angle ℝ), cfg.num = Numerics.real divByZero →
    (0 ≤ (advancePhase cfg rate ph).val ∧ (advancePhase cfg rate ph).val < 2 * Real.pi) ∧
    (∃ k : Int, (advancePhase cfg rate ph).val = ph.val + 2 * Real.pi * rate / cfg.fs - k * (2 * Real.pi)) ∧
    (∀ step : ℝ, step = 2 * Real.pi * rate / cfg.fs → 0 ≤ ph.val → ph.val < 2 * Real.pi → 0 ≤ step → step < 2 * Real.pi →
      (advancePhase cfg rate ph).val =
        if ph.val + step ≥ 2 * Real.pi then ph.val + step - 2 * Real.pi else ph.val + step) ∧
    cfg.num.sin ph = Real.sin ph.val ∧ cfg.num.cos ph = Real.cos ph.val) ∧
  Config.machine.num.IsExact ∧ Config.machine.num.pi = 1

/-- The waveforms (45_chorus_moddelay R321): with t = φ/(2π) in [0, 1), the four formulas, piece by piece; triangle, square and
saw stay in [−1, 1], and start at 0, 1 and 0. In the reference semantics (00_scope R9) the sine wave is the real sine of
the phase in radians; it too stays in [−1, 1] and starts at 0. -/
def Obligations.WaveformsStayInRange : Prop :=
  (∀ (K : Type) [Field K] [LinearOrder K] [IsStrictOrderedRing K] [FloorRing K],
  ∀ (n : Numerics K) (ph : Angle K) (t : K), t = ph.val / (2 * n.pi) → 0 ≤ t → t < 1 →
    wave n .sine ph = n.sin ph ∧
    (t < 1 / 4 → wave n .triangle ph = 4 * t) ∧
    (1 / 4 ≤ t → t < 3 / 4 → wave n .triangle ph = 2 - 4 * t) ∧
    (3 / 4 ≤ t → wave n .triangle ph = 4 * t - 4) ∧
    (t < 1 / 2 → wave n .square ph = 1 ∧ wave n .saw ph = 2 * t) ∧
    (1 / 2 ≤ t → wave n .square ph = -1 ∧ wave n .saw ph = 2 * t - 2) ∧
    (∀ w : Waveform, w ≠ .sine → -1 ≤ wave n w ph ∧ wave n w ph ≤ 1) ∧
    wave n .triangle ⟨0⟩ = 0 ∧ wave n .square ⟨0⟩ = 1 ∧ wave n .saw ⟨0⟩ = 0) ∧
  ∀ (divByZero : ℝ → ℝ) (ph : Angle ℝ),
    wave (Numerics.real divByZero) .sine ph = Real.sin ph.val ∧
    -1 ≤ wave (Numerics.real divByZero) .sine ph ∧ wave (Numerics.real divByZero) .sine ph ≤ 1 ∧
    wave (Numerics.real divByZero) .sine ⟨0⟩ = 0

/-- The chorus step (45_chorus_moddelay R326 to R330): both lines are read, at their LFO-swept delays, before either is
written; each line takes its input with the self- and cross-feedback terms, at the shared pointer and nowhere else; the output
blends dry and delayed signal; pointer and phases advance. The flanger step (R332): one LFO, of the waveform that p4 selects,
sweeps both lanes; each line takes its own lane with its own feedback; the output is half the sum of input and delayed signal;
pointer and phase advance. (The waveform select is said of exact arithmetic, 00_scope R9.) -/
def Obligations.ChorusReadsBothLinesBeforeItWrites : Prop :=
  ∀ (K : Type) [Field K] [LinearOrder K] [IsStrictOrderedRing K] [FloorRing K],
  (∀ (cfg : Config K) (p : ChorusParams K) (st : ChorusState K) (x : Stereo K) (yL yR fb xf : K),
    ringWf cfg.chorusCap st.bufL = true → ringWf cfg.chorusCap st.bufR = true → st.w < cfg.chorusCap →
    yL = fracRead cfg.num cfg.chorusCap st.bufL st.w (cfg.fs * (p.baseDelay + p.depth * cfg.chorusDepthMax * cfg.num.sin st.phL)) →
    yR = fracRead cfg.num cfg.chorusCap st.bufR st.w (cfg.fs * (p.baseDelay + p.depth * cfg.chorusDepthMax * cfg.num.sin st.phR)) →
    fb = cfg.chorusFbMax * p.feedback → xf = cfg.chorusFbMax * p.crossFeedback →
    (fxChorus cfg p st x).1 =
      ⟨p.level * ((1 - p.output) * x.l + p.output * yL), p.level * ((1 - p.output) * x.r + p.output * yR)⟩ ∧
    (∀ j : Nat, j < cfg.chorusCap →
      ringRead cfg.chorusCap (fxChorus cfg p st x).2.bufL j =
        (if j = st.w then x.l + fb * yL + xf * yR else ringRead cfg.chorusCap st.bufL j) ∧
      ringRead cfg.chorusCap (fxChorus cfg p st x).2.bufR j =
        (if j = st.w then x.r + fb * yR + xf * yL else ringRead cfg.chorusCap st.bufR j)) ∧
    (fxChorus cfg p st x).2.w = (st.w + 1) % cfg.chorusCap ∧
    (fxChorus cfg p st x).2.phL = advancePhase cfg p.rate st.phL ∧
    (fxChorus cfg p st x).2.phR = advancePhase cfg p.rate st.phR) ∧
  (∀ (n : Numerics K) (p4 : K), n.IsExact → (p4 < 1 / 4 → flangerWaveform n p4 = .sine) ∧
    (1 / 4 ≤ p4 → p4 < 1 / 2 → flangerWaveform n p4 = .triangle) ∧
    (1 / 2 ≤ p4 → p4 < 3 / 4 → flangerWaveform n p4 = .square) ∧ (3 / 4 ≤ p4 → flangerWaveform n p4 = .saw)) ∧
  (∀ (cfg : Config K) (p : GenericParams K) (st : FlangerState K) (x : Stereo K) (d fb yL yR : K),
    ringWf cfg.flangerCap st.bufL = true → ringWf cfg.flangerCap st.bufR = true → st.w < cfg.flangerCap →
    d = cfg.fs * (cfg.flangerBase + cfg.flangerDepthMax * p.p2 * wave cfg.num (flangerWaveform cfg.num p.p4) st.ph) →
    fb = cfg.flangerFbMax * p.p3 →
    yL = fracRead cfg.num cfg.flangerCap st.bufL st.w d → yR = fracRead cfg.num cfg.flangerCap st.bufR st.w d →
    (procFlanger cfg x p st).1 = ⟨(x.l + yL) / 2, (x.r + yR) / 2⟩ ∧
    (∀ j : Nat, j < cfg.flangerCap →
      ringRead cfg.flangerCap (procFlanger cfg x p st).2.bufL j =
        (if j = st.w then x.l + fb * yL else ringRead cfg.flangerCap st.bufL j) ∧
      ringRead cfg.flangerCap (procFlanger cfg x p st).2.bufR j =
        (if j = st.w then x.r + fb * yR else ringRead cfg.flangerCap st.bufR j)) ∧
    (procFlanger cfg x p st).2.w = (st.w + 1) % cfg.flangerCap ∧
    (procFlanger cfg x p st).2.ph = advancePhase cfg (10 * p.p1) st.ph)

/-! ## Registry and dynamics -/

/-- SlotRun (43_registry R271, R272, R273): the processor of the type runs on its own record, the output is scaled by the
level, and the records of all other types keep their values. -/
def Obligations.SlotRunUsesOnlyItsOwnRecord : Prop :=
  ∀ (K : Type) [Zero K] [One K] [Add K] [Sub K] [Mul K] [Div K] [Neg K] [NatCast K] [IntCast K] [Max K] [Min K]
    [LT K] [DecidableLT K] [DecidableEq K],
  ∀ (cfg : Config K) (slot : Slot K) (p : GenericParams K) (level : K) (x : Stereo K),
    (∀ t : Int, t = 0 ∨ t = 2 → slotRun cfg slot t p level x = (scaleFrame level x, slot)) ∧
    slotRun cfg slot 1 p level x =
      (scaleFrame level (procFlanger cfg x p slot.flanger).1,
       { slot with flanger := (procFlanger cfg x p slot.flanger).2 }) ∧
    slotRun cfg slot 3 p level x =
      (scaleFrame level (procCompressor cfg x p slot.compressor).1,
       { slot with compressor := (procCompressor cfg x p slot.compressor).2 }) ∧
    slotRun cfg slot 4 p level x =
      (scaleFrame level (procGate cfg x p slot.gate).1, { slot with gate := (procGate cfg x p slot.gate).2 }) ∧
    ∀ k : Fin 123, slotRun cfg slot ((k.val : Int) + 5) p level x =
      (scaleFrame level (cfg.ext.run (k.val + 5) x p slot.ext[k]).1,
       { slot with ext := slot.ext.set k (cfg.ext.run (k.val + 5) x p slot.ext[k]).2 })

/-- The ramp coefficient (46_dynamics R351): Coef(t) = 1 − exp(−1/(t·fs)) for t > 0 and Coef(0) = 1. The envelope follower
(R352): with coefficients in [0, 1] the result lies between the envelope and the level; the attack coefficient is taken while
the level is above the envelope, the release coefficient otherwise. In the reference
block 0 < Coef(t) < 1 for t > 0, and a follower with Coef(t) reaches 1 − 1/e of a step in t·fs frames. -/
def Obligations.EnvelopeStaysBetweenItsInputs : Prop :=
  (∀ (K : Type) [Field K] [LinearOrder K] [IsStrictOrderedRing K] [FloorRing K],
  (∀ (cfg : Config K) (t : K), 0 < cfg.fs →
    (0 < t → rampCoef cfg t = 1 - cfg.num.exp (-1 / (t * cfg.fs))) ∧ rampCoef cfg 0 = 1) ∧
  (∀ (env e attack release : K), 0 ≤ attack → attack ≤ 1 → 0 ≤ release → release ≤ 1 →
    (env < e → follow env e attack release = env + attack * (e - env)) ∧
    (e ≤ env → follow env e attack release = env + release * (e - env)) ∧
    min env e ≤ follow env e attack release ∧ follow env e attack release ≤ max env e)) ∧
  ∀ (divByZero : ℝ → ℝ) (ext : ExtProcs ℝ) (cfg : Config ℝ) (t : ℝ), cfg = Config.reference divByZero ext → 0 < t →
    (0 < rampCoef cfg t ∧ rampCoef cfg t < 1) ∧
    ∀ n : Nat, (n : ℝ) = t * cfg.fs →
      (List.replicate n 1).foldl (fun env e => follow env e (rampCoef cfg t) (rampCoef cfg t)) 0 = 1 - Real.exp (-1)

/-- The compressor (46_dynamics R354): the envelope is updated first; at or below the threshold the output is the input; above
it both lanes are scaled by one gain, (thr / env)^(1 − 1/ratio). The static curve (R355), in the reference block: while the
envelope is the level env > thr, it stays and the output level is thr·(env / thr)^(1/ratio). -/
def Obligations.CompressorReducesAboveTheThreshold : Prop :=
  (∀ (K : Type) [Field K] [LinearOrder K] [IsStrictOrderedRing K] [FloorRing K],
  ∀ (cfg : Config K) (x : Stereo K) (p : GenericParams K) (st : CompressorState K) (thr env : K),
    0 ≤ p.p2 → thr = cfg.num.pow10 ((-60 + 60 * p.p1) / 20) →
    env = follow st.env (max |x.l| |x.r|) (rampCoef cfg (1 / 10000 + 999 / 10000 * p.p3))
      (rampCoef cfg (1 / 100 + 99 / 100 * p.p4)) →
    (procCompressor cfg x p st).2 = ⟨env⟩ ∧
    (env ≤ thr → (procCompressor cfg x p st).1 = x) ∧
    (thr < env → env ≠ 0 → ∀ gain : K, gain = cfg.num.pow (thr / env) (1 - 1 / (1 + 19 * p.p2)) →
      (procCompressor cfg x p st).1 = ⟨gain * x.l, gain * x.r⟩)) ∧
  ∀ (divByZero : ℝ → ℝ) (ext : ExtProcs ℝ) (x : Stereo ℝ) (p : GenericParams ℝ) (env thr : ℝ),
    0 ≤ p.p2 → thr = 10 ^ ((-60 + 60 * p.p1) / 20) → env = max |x.l| |x.r| → thr < env →
    ∃ y : Stereo ℝ, procCompressor (Config.reference divByZero ext) x p ⟨env⟩ = (y, ⟨env⟩) ∧
      max |y.l| |y.r| = thr * (env / thr) ^ (1 / (1 + 19 * p.p2))

/-- The gate (46_dynamics R356): it opens at once above the threshold, holds while the count lasts, then closes with the decay
and the fixed attenuation; a level equal to the threshold does not open it. Over any numbers with exact arithmetic (00_scope
R9). -/
def Obligations.GateOpensHoldsAndCloses : Prop :=
  ∀ (K : Type) [Field K] [LinearOrder K] [IsStrictOrderedRing K] [FloorRing K],
  ∀ (cfg : Config K) (x : Stereo K) (p : GenericParams K) (g : K) (h : Nat) (thr : K), cfg.num.IsExact → 0 < cfg.fs → 0 ≤ p.p3 →
    thr = cfg.num.pow10 ((-80 + 80 * p.p1) / 20) →
    (thr < max |x.l| |x.r| → procGate cfg x p ⟨g, h⟩ = (x, ⟨1, (⌊1 / 2 * p.p2 * cfg.fs⌋).toNat⟩)) ∧
    (max |x.l| |x.r| ≤ thr → 0 < h → procGate cfg x p ⟨g, h⟩ = (⟨g * x.l, g * x.r⟩, ⟨g, h - 1⟩)) ∧
    (max |x.l| |x.r| ≤ thr → h = 0 → ∀ c : K,
      c = cfg.num.exp (-1 / ((1 / 1000 + 999 / 1000 * p.p3) * cfg.fs)) →
      procGate cfg x p ⟨g, h⟩ = (⟨g * c * cfg.gateAtten * x.l, g * c * cfg.gateAtten * x.r⟩, ⟨g * c, 0⟩))

/-- The closing envelope of the gate (46_dynamics R357): after n closing frames the gate's gain is g0·c^n with
c = exp(−1/(tau·fs)), and a closing frame is scaled by GATE_ATTEN times the gain after it. In the reference
block c is the real exponential and 0 < c < 1. -/
def Obligations.GateClosesExponentially : Prop :=
  (∀ (K : Type) [Field K] [LinearOrder K] [IsStrictOrderedRing K] [FloorRing K],
  ∀ (cfg : Config K) (p : GenericParams K) (frames : List (Stereo K)) (last : Stereo K) (g0 c : K) (st : GateState K),
    0 < cfg.fs → 0 ≤ p.p3 → c = cfg.num.exp (-1 / ((1 / 1000 + 999 / 1000 * p.p3) * cfg.fs)) →
    (∀ x ∈ last :: frames, max |x.l| |x.r| ≤ cfg.num.pow10 ((-80 + 80 * p.p1) / 20)) →
    st = frames.foldl (fun st x => (procGate cfg x p st).2) ⟨g0, 0⟩ →
    st = ⟨g0 * c ^ frames.length, 0⟩ ∧
    (procGate cfg last p st).1 =
      ⟨cfg.gateAtten * (g0 * c ^ (frames.length + 1)) * last.l, cfg.gateAtten * (g0 * c ^ (frames.length + 1)) * last.r⟩) ∧
  ∀ (divByZero : ℝ → ℝ) (ext : ExtProcs ℝ) (cfg : Config ℝ) (p3 : ℝ), cfg = Config.reference divByZero ext → 0 ≤ p3 →
    gateDecay cfg p3 = Real.exp (-1 / ((1 / 1000 + 999 / 1000 * p3) * cfg.fs)) ∧
    0 < gateDecay cfg p3 ∧ gateDecay cfg p3 < 1
end

