-- ==== Sys2Proof/Laws/Binary64.lean ====
section
/-! SUPPORT. The binary64 block: what rounding answers, the floor of the finite numbers, and its construction. -/

namespace Sys2Proof

/-- Rounding an integer quotient is off by at most a half. -/
theorem roundQuotient_near (n : Nat) {d : Nat} (hd : 0 < d) :
    2 * (roundQuotient n d * d) ≤ 2 * n + d ∧ 2 * n ≤ 2 * (roundQuotient n d * d) + d := by
  have e := Nat.div_add_mod n d
  rw [Nat.mul_comm] at e
  have h : (n / d + 1) * d = n / d * d + d := by ring
  have := Nat.mod_lt n hd
  unfold roundQuotient
  split_ifs <;> (try rw [h]) <;> omega

/-- A tie goes to the even integer. -/
theorem roundQuotient_tie {n d : Nat} (h : 2 * (n % d) = d) : roundQuotient n d % 2 = 0 := by
  unfold roundQuotient
  rw [if_neg (by omega), if_neg (by omega)]
  split <;> omega

/-- A datum below the top exponent is finite. -/
theorem Binary64.kind_of_exponent {a : Binary64} (h : a.exponent ≠ 2047) :
    a.kind = .finite (if a.sign then -a.magnitude else a.magnitude) := if_neg h

/-- The floor of a finite datum does not depend on what the infinities and the NaNs take. -/
theorem Binary64.floor_congr (other other' : Binary64 → Int) {a : Binary64} (h : a.exponent ≠ 2047) :
    Binary64.floor other a = Binary64.floor other' a := by
  simp only [Binary64.floor, Binary64.kind_of_exponent h]

section
variable {K : Type} [Zero K] [One K] [Add K] [Sub K] [Mul K] [Div K] [Neg K] [NatCast K] [LT K] [DecidableLT K]

/-- The constraints on the parameters, as propositions (00_scope R7, 20_memory R100, 10_state R75). -/
theorem valid_iff_constraints (c : Config K) : c.valid = true ↔
    (0 < c.fs ∧ c.num.floor ((127 / 10000) * c.fs) < (c.pdCap : Int) ∧
      c.num.floor ((83 / 10) * c.fs * c.combK * 8) < (c.combCap : Int) ∧ (∀ n ∈ c.apLen.toList, 1 ≤ n) ∧
      c.num.ceil (((30 / 1000) + c.chorusDepthMax) * c.fs) + 2 ≤ (c.chorusCap : Int) ∧
      c.num.ceil ((c.flangerBase + c.flangerDepthMax) * c.fs) + 2 ≤ (c.flangerCap : Int) ∧
      c.eqHighFreq < c.fs / 2 ∧ 10000 < c.fs / 2 ∧ c.combG0 + c.combGStep * (8 - 1) < 1 ∧ 2 * c.chorusFbMax < 1 ∧
      c.flangerFbMax < 1 ∧ 0 < c.apG ∧ c.apG < 1) ∧
    1 ≤ c.pdCap ∧ 1 ≤ c.combCap ∧ 1 ≤ c.chorusCap ∧ 1 ≤ c.flangerCap ∧ ¬ c.chorusRPhase0.val < 0 ∧
    c.chorusRPhase0.val < 2 * c.num.pi := by
  simp only [Config.valid, Config.admissible, Bool.and_eq_true, decide_eq_true_eq, and_assoc, Bool.not_eq_true',
    decide_eq_false_iff_not, List.all_eq_true]

end

/-- The third column of 00_scope R7 meets the constraints in binary64 arithmetic. -/
theorem valid_binary64 (f : Functions Binary64) (other : Binary64 → Int) (ext : ExtProcs Binary64) :
    Binary64.arithmetic (Config.valid (Config.binary64 f other ext)) = true := by
  refine (@valid_iff_constraints Binary64 ⟨.zeroOf false⟩ ⟨.ofInt 1⟩ ⟨.add⟩ ⟨.sub⟩ ⟨.mul⟩ ⟨.div⟩ ⟨.neg⟩ ⟨fun n => .ofInt n⟩
    ⟨fun a b => a.below b = true⟩ (fun a b => inferInstanceAs (Decidable (a.below b = true))) (Config.binary64 f other ext)).2 ?_
  simp only [Config.binary64, Config.r7, Numerics.binary64, Numerics.ceil, Binary64.arithmetic]
  have e := fun a h => @Binary64.floor_congr other (fun _ => 0) a h
  simp (disch := decide +kernel) only [e]
  decide +kernel

/-- So it builds a binary64 block, in the state of 70_reset_and_hazards R400. -/
theorem construct_binary64 (f : Functions Binary64) (other : Binary64 → Int) (ext : ExtProcs Binary64) :
    Machine.binary64Construct (Config.binary64 f other ext) =
      some (Binary64.arithmetic (Machine.State.resetWith (Config.binary64 f other ext))) := by
  have h := valid_binary64 f other ext
  generalize Config.binary64 f other ext = cfg at h ⊢
  exact if_pos h

end Sys2Proof
end

