-- ==== Sys2Proof/Laws/Descriptor.lean ====
section
/-! SUPPORT. The descriptor table, reading and writing a register, and the transforms. -/

namespace Sys2Proof.Machine

set_option linter.unusedSectionVars false

variable {K : Type} [Field K] [LinearOrder K] [IsStrictOrderedRing K] [FloorRing K]

/-! ## The table -/

/-- Each row is found at its address. -/
theorem descriptor_fieldAddress (f : ParamField) : descriptor 0 (fieldAddress f) = some f := by
  cases f with
  | sys f => cases f <;> decide
  | ch f => cases f <;> decide

/-- The rows are at the 49 addresses and at no other. -/
theorem descriptor_eq_some {aH aL : Byte} {f : ParamField} :
    descriptor aH aL = some f ↔ aH = 0 ∧ fieldAddress f = aL := by
  constructor
  · intro h
    unfold descriptor at h
    split at h
    · rename_i h0
      have := List.find?_some h
      exact ⟨h0, by simpa using this⟩
    · cases h
  · rintro ⟨rfl, rfl⟩
    exact descriptor_fieldAddress f

theorem descriptor_eq_none {aH aL : Byte} : descriptor aH aL = none ↔ aH ≠ 0 ∨ ∀ f, fieldAddress f ≠ aL := by
  constructor
  · intro h
    by_cases h0 : aH = 0
    · right
      rintro f rfl
      rw [h0, descriptor_fieldAddress f] at h
      cases h
    · exact .inl h0
  · intro h
    cases hd : descriptor aH aL with
    | none => rfl
    | some f =>
      obtain ⟨h0, hf⟩ := descriptor_eq_some.1 hd
      rcases h with h | h
      · exact absurd h0 h
      · exact absurd hf (h f)

theorem mem_sysFields (f : SysField) : f ∈ sysFields := by cases f <;> decide

theorem mem_chFields (f : ChField) : f ∈ chFields := by cases f <;> decide

theorem sysFields_nodup : sysFields.Nodup := by decide

theorem chFields_nodup : chFields.Nodup := by decide

/-! ## Reading what was written -/

/-- A value of a transform's kind. -/
def ofKind : Transform K → Value K → Prop
  | .lin _ _, .real _ => True
  | .idx _, .index _ => True
  | .bool, .flag _ => True
  | .pan, .real _ => True
  | _, _ => False

theorem ofKind_of_legal {t : (Transform K)} {x : (Value K)} (h : valueLegal t x) : ofKind t x := by
  cases t <;> cases x <;> simp_all [valueLegal, ofKind]

theorem ofKind_readSys (p : Params K) (f : SysField) : ofKind (sysTransform f) (readSys p f) := by
  cases f <;> trivial

theorem ofKind_readCh (c : Channel K) (f : ChField) : ofKind (chTransform f) (readCh c f) := by
  cases f <;> trivial

theorem ofKind_decodeValue (t : Transform K) (v : Nat) : ofKind t (decodeValue t v) := by cases t <;> trivial

theorem ofKind_legalValue (t : Transform K) (x : Value K) : ofKind t (legalValue t x) := by cases t <;> trivial

theorem readSys_writeSys_same (p : Params K) (f : SysField) {x : (Value K)} (h : ofKind (sysTransform f) x) :
    readSys (writeSys p f x) f = x := by
  cases f <;> cases x <;> first | rfl | exact h.elim

theorem readCh_writeCh_same (c : Channel K) (f : ChField) {x : (Value K)} (h : ofKind (chTransform f) x) :
    readCh (writeCh c f x) f = x := by
  cases f <;> cases x <;> first | rfl | exact h.elim

theorem readSys_writeSys_other (p : Params K) {f g : SysField} (h : g ≠ f) (x : Value K) :
    readSys (writeSys p f x) g = readSys p g := by
  cases f <;> cases g <;> first | rfl | exact absurd rfl h

theorem readCh_writeCh_other (c : Channel K) {f g : ChField} (h : g ≠ f) (x : Value K) :
    readCh (writeCh c f x) g = readCh c g := by
  cases f <;> cases g <;> first | rfl | exact absurd rfl h

/-- Two parameter files with the same fields are the same. -/
theorem params_ext {p q : (Params K)} (h : ∀ f, readSys p f = readSys q f) : p = q := by
  obtain ⟨⟨⟩, ⟨⟩, ⟨⟩, ⟨⟩, ⟨⟩, ⟨⟩⟩ := p
  obtain ⟨⟨⟩, ⟨⟩, ⟨⟩, ⟨⟩, ⟨⟩, ⟨⟩⟩ := q
  have h1 := h .reverbTime; have h2 := h .reverbPreDelay; have h3 := h .reverbHfDamping
  have h4 := h .reverbDensity; have h5 := h .reverbLevel
  have h6 := h .chorusRate; have h7 := h .chorusDepth; have h8 := h .chorusFeedback
  have h9 := h .chorusCrossFeedback; have h10 := h .chorusBaseDelay; have h11 := h .chorusOutput
  have h12 := h .chorusLevel
  have h13 := h .variationType; have h14 := h .variationParam1; have h15 := h .variationParam2
  have h16 := h .variationParam3; have h17 := h .variationParam4; have h18 := h .variationLevel
  have h19 := h .variationBypass
  have h20 := h .eqLowGain; have h21 := h .eqMidGain; have h22 := h .eqHighGain; have h23 := h .eqMidFreq
  have h24 := h .eqMidQ
  have h25 := h .routingEffectOrder; have h26 := h .routingSendReverbToChorus
  have h27 := h .routingSendReverbToVariation; have h28 := h .routingSendChorusToReverb
  have h29 := h .routingSendChorusToVariation; have h30 := h .routingSendVariationToReverb
  have h31 := h .routingSendVariationToChorus
  have h32 := h .globalMasterLevel; have h33 := h .globalBypass; have h34 := h .globalCurrentChannel
  clear h
  simp only [readSys, Value.real.injEq, Value.index.injEq, Value.flag.injEq] at *
  subst_vars
  rfl

/-- Two banks with the same fields are the same. -/
theorem channel_ext {c d : (Channel K)} (h : ∀ f, readCh c f = readCh d f) : c = d := by
  obtain ⟨⟩ := c
  obtain ⟨⟩ := d
  have h1 := h .insType; have h2 := h .insParam1; have h3 := h .insParam2; have h4 := h .insParam3
  have h5 := h .insParam4; have h6 := h .insLevel; have h7 := h .insBypass; have h8 := h .reverbSend
  have h9 := h .chorusSend; have h10 := h .variationSend; have h11 := h .insertionSend; have h12 := h .pan
  have h13 := h .volume; have h14 := h .mute; have h15 := h .solo
  clear h
  simp only [readCh, Value.real.injEq, Value.index.injEq, Value.flag.injEq] at *
  subst_vars
  rfl

/-! ## SET's clamping -/

/-- A field after the writes of a list of fields. -/
theorem readSys_foldl_writeSys (val : SysField → Value K) (hk : ∀ f, ofKind (sysTransform f) (val f))
    (l : List SysField) (p : Params K) (f : SysField) :
    readSys (l.foldl (fun q g => writeSys q g (val g)) p) f = if f ∈ l then val f else readSys p f := by
  induction l generalizing p with
  | nil => simp
  | cons g t ih =>
    rw [List.foldl_cons, ih]
    by_cases hf : f ∈ t
    · simp [hf]
    · by_cases hg : f = g
      · subst hg; simp [hf, readSys_writeSys_same p f (hk f)]
      · simp [hf, hg, readSys_writeSys_other p hg]

theorem readCh_foldl_writeCh (val : ChField → Value K) (hk : ∀ f, ofKind (chTransform f) (val f))
    (l : List ChField) (c : Channel K) (f : ChField) :
    readCh (l.foldl (fun q g => writeCh q g (val g)) c) f = if f ∈ l then val f else readCh c f := by
  induction l generalizing c with
  | nil => simp
  | cons g t ih =>
    rw [List.foldl_cons, ih]
    by_cases hf : f ∈ t
    · simp [hf]
    · by_cases hg : f = g
      · subst hg; simp [hf, readCh_writeCh_same c f (hk f)]
      · simp [hf, hg, readCh_writeCh_other c hg]

theorem readSys_legalParams (p : Params K) (f : SysField) :
    readSys (legalParams p) f = legalValue (sysTransform f) (readSys p f) := by
  unfold legalParams
  rw [readSys_foldl_writeSys (fun g => legalValue (sysTransform g) (readSys p g))
    (fun g => ofKind_legalValue _ _)]
  simp [mem_sysFields]

theorem readCh_legalChannel (c : Channel K) (f : ChField) :
    readCh (legalChannel c) f = legalValue (chTransform f) (readCh c f) := by
  unfold legalChannel
  rw [readCh_foldl_writeCh (fun g => legalValue (chTransform g) (readCh c g))
    (fun g => ofKind_legalValue _ _)]
  simp [mem_chFields]

/-! ## The transforms -/

/-- Every transform of the table has lo < hi. -/
def transformProper : Transform K → Prop
  | .lin lo hi => lo < hi
  | _ => True

theorem sysTransform_proper (f : SysField) : transformProper (sysTransform f : Transform K) := by
  cases f <;> simp only [sysTransform, transformProper] <;> norm_num

theorem chTransform_proper (f : ChField) : transformProper (chTransform f : Transform K) := by
  cases f <;> simp only [chTransform, transformProper] <;> norm_num

theorem fieldTransform_proper (f : ParamField) : transformProper (fieldTransform f : Transform K) := by
  cases f with
  | sys f => exact sysTransform_proper f
  | ch f => exact chTransform_proper f

/-- A decoded value is in the field's legal range (30_encoding R140). -/
theorem decodeValue_legal {t : (Transform K)} (ht : transformProper t) {v : Nat} (hv : v ≤ 16383) :
    valueLegal t (decodeValue t v) := by
  have h0 : (0 : K) ≤ v := by positivity
  have h1 : (v : K) ≤ 16383 := by exact_mod_cast hv
  cases t with
  | lin lo hi =>
    simp only [transformProper] at ht
    simp only [decodeValue, valueLegal]
    have hd : 0 < hi - lo := by linarith
    constructor
    · have : 0 ≤ (hi - lo) * v / 16383 := by positivity
      linarith
    · have : (hi - lo) * v / 16383 ≤ hi - lo := by
        rw [div_le_iff₀ (by norm_num)]
        exact mul_le_mul_of_nonneg_left h1 hd.le
      linarith
  | idx m =>
    simp only [decodeValue, valueLegal]
    exact ⟨by omega, by omega⟩
  | bool => trivial
  | pan =>
    simp only [decodeValue, valueLegal]
    exact ⟨by positivity, by rw [div_le_iff₀ (by norm_num)]; linarith⟩

/-- A value SET stores is in the field's legal range (40_protocol R196). -/
theorem legalValue_legal {t : (Transform K)} (ht : transformProper t) (x : Value K) : valueLegal t (legalValue t x) := by
  cases t with
  | lin lo hi =>
    simp only [transformProper] at ht
    simp only [legalValue, valueLegal, clampScalar]
    exact ⟨le_min ht.le (le_max_left _ _), min_le_left _ _⟩
  | idx m =>
    simp only [legalValue, valueLegal, clampInt]
    exact ⟨by omega, by omega⟩
  | bool => trivial
  | pan =>
    simp only [legalValue, valueLegal, clampScalar]
    exact ⟨le_min (by norm_num) (le_max_left _ _), min_le_left _ _⟩

/-- A legal value is not changed by SET (40_protocol R196). -/
theorem legalValue_of_legal {t : (Transform K)} {x : (Value K)} (h : valueLegal t x) : legalValue t x = x := by
  cases t <;> cases x <;> simp only [valueLegal] at h
  · simp only [legalValue, Value.toReal, clampScalar, max_eq_right h.1, min_eq_right h.2]
  · simp only [legalValue, Value.toIndex, clampInt, max_eq_right h.1, min_eq_right h.2]
  · rfl
  · simp only [legalValue, Value.toReal, clampScalar, max_eq_right h.1, min_eq_right h.2]

theorem value14_le {vH vL : Byte} (hH : isDataByte vH = true) (hL : isDataByte vL = true) :
    value14 vH vL ≤ 16383 := by
  simp only [isDataByte, decide_eq_true_eq] at hH hL
  unfold value14; omega

end Sys2Proof.Machine
end

