-- ==== Sys2Proof/Laws/Decode.lean ====
section
/-! SUPPORT. The parts of the decoder: taking bytes, reals and frames off the port, and the rows of PU and SX. -/

namespace Sys2Proof

set_option linter.unusedSectionVars false

variable {K : Type}

/-! ## Taking parts -/

@[simp] theorem thenTake_got {α β : Type} (a : α) (rest : List (PortItem K)) (k : α → List (PortItem K) → Taken K β) :
    thenTake (.got a rest) k = k a rest := rfl

@[simp] theorem thenTake_short {α β : Type} (k : α → List (PortItem K) → Taken K β) : thenTake .short k = .short := rfl

@[simp] theorem thenTake_wrong {α β : Type} (k : α → List (PortItem K) → Taken K β) : thenTake .wrong k = .wrong := rfl

/-- What `thenTake` gives, it got from both parts. -/
theorem thenTake_eq_got {α β : Type} {t : Taken K α} {k : α → List (PortItem K) → Taken K β} {b : β} {rest : List (PortItem K)} :
    thenTake t k = .got b rest ↔ ∃ a r, t = .got a r ∧ k a r = .got b rest := by
  cases t <;> simp

@[simp] theorem takeByte_byte (b : Byte) (rest : List (PortItem K)) : takeByte (.byte b :: rest) = .got b rest := rfl

theorem takeByte_eq_got {items : List (PortItem K)} {b : Byte} {rest : List (PortItem K)} :
    takeByte items = .got b rest ↔ items = .byte b :: rest := by
  rcases items with _ | ⟨_ | _ | _, _⟩ <;> simp [takeByte]

theorem takeSnapshot_eq_got {items : List (PortItem K)} {s : (Snapshot K)} {rest : List (PortItem K)} :
    takeSnapshot items = .got s rest ↔ items = .snapshot s :: rest := by
  rcases items with _ | ⟨_ | _ | _, _⟩ <;> simp [takeSnapshot]

theorem takeBytes_eq_got {n : Nat} {items : List (PortItem K)} {bs : List Byte} {rest : List (PortItem K)} :
    takeBytes n items = .got bs rest ↔ bs.length = n ∧ items = byteItems bs ++ rest := by
  induction n generalizing items bs with
  | zero => cases bs <;> simp [takeBytes, byteItems, eq_comm]
  | succ n ih =>
    rcases items with _ | ⟨_ | _ | _, t⟩ <;> cases bs <;>
      simp [takeBytes, byteItems, thenTake_eq_got, ih]
    tauto

theorem takeReals_eq_got {n : Nat} {items : List (PortItem K)} {xs : List K} {rest : List (PortItem K)} :
    takeReals n items = .got xs rest ↔ xs.length = n ∧ items = xs.map .real ++ rest := by
  induction n generalizing items xs with
  | zero => cases xs <;> simp [takeReals, eq_comm]
  | succ n ih =>
    rcases items with _ | ⟨_ | _ | _, t⟩ <;> cases xs <;> simp [takeReals, thenTake_eq_got, ih]
    tauto

theorem takeFrames_eq_got {n : Nat} {items : List (PortItem K)} {fs : List (Stereo K)} {rest : List (PortItem K)} :
    takeFrames n items = .got fs rest ↔ fs.length = n ∧ items = frameItems fs ++ rest := by
  induction n generalizing items fs with
  | zero => cases fs <;> simp [takeFrames, frameItems, eq_comm]
  | succ n ih =>
    rcases items with _ | ⟨_ | _ | _, _ | ⟨_ | _ | _, t⟩⟩ <;> cases fs <;>
      simp [takeFrames, frameItems, thenTake_eq_got, ih]
    simp only [Stereo.ext_iff]
    tauto

@[simp] theorem takeBytes_append (bs : List Byte) (rest : List (PortItem K)) :
    takeBytes bs.length (byteItems bs ++ rest) = .got bs rest := takeBytes_eq_got.2 ⟨rfl, rfl⟩

@[simp] theorem takeReals_append (xs : List K) (rest : List (PortItem K)) :
    takeReals xs.length (xs.map .real ++ rest) = .got xs rest := takeReals_eq_got.2 ⟨rfl, rfl⟩

@[simp] theorem takeFrames_append (fs : List (Stereo K)) (rest : List (PortItem K)) :
    takeFrames fs.length (frameItems fs ++ rest) = .got fs rest := takeFrames_eq_got.2 ⟨rfl, rfl⟩

@[simp] theorem byteItems_nil : (byteItems [] : List (PortItem K)) = [] := rfl

@[simp] theorem byteItems_cons (b : Byte) (bs : List Byte) : (byteItems (b :: bs) : List (PortItem K)) = .byte b :: byteItems bs := rfl

@[simp] theorem byteItems_append (bs cs : List Byte) :
    (byteItems (bs ++ cs) : List (PortItem K)) = byteItems bs ++ byteItems cs := by
  simp [byteItems]

/-! ## More items on the port -/

/-- A parser that has what it needs does not look at what follows. -/
def Settled {α : Type} (take : List (PortItem K) → Taken K α) : Prop :=
  ∀ items more, (∀ a r, take items = .got a r → take (items ++ more) = .got a (r ++ more)) ∧
    (take items = .wrong → take (items ++ more) = .wrong)

theorem settled_bind {α β : Type} {take : List (PortItem K) → Taken K α} {k : α → List (PortItem K) → Taken K β}
    (h : Settled take) (hk : ∀ a, Settled (k a)) : Settled fun items => thenTake (take items) k := by
  intro items more
  have h1 := h items more
  beta_reduce
  cases ht : take items with
  | got a r =>
    rw [h1.1 a r ht]
    exact hk a r more
  | short => simp
  | wrong => rw [h1.2 ht]; simp

theorem settled_got {α : Type} (a : α) : Settled (Taken.got (K := K) a) := by
  intro items more
  simp

theorem settled_takeByte : Settled (takeByte (K := K)) := by
  rintro (_ | ⟨_ | _ | _, _⟩) more <;> simp [takeByte]

theorem settled_takeSnapshot : Settled (takeSnapshot (K := K)) := by
  rintro (_ | ⟨_ | _ | _, _⟩) more <;> simp [takeSnapshot]

theorem settled_takeBytes (n : Nat) : Settled (takeBytes (K := K) n) := by
  induction n with
  | zero => exact settled_got _
  | succ n ih =>
    rintro (_ | ⟨b | _ | _, t⟩) more
    · simp [takeBytes]
    · exact settled_bind ih (fun bs => settled_got (b :: bs)) t more
    · simp [takeBytes]
    · simp [takeBytes]

theorem settled_takeReals (n : Nat) : Settled (takeReals (K := K) n) := by
  induction n with
  | zero => exact settled_got _
  | succ n ih =>
    rintro (_ | ⟨_ | x | _, t⟩) more
    · simp [takeReals]
    · simp [takeReals]
    · exact settled_bind ih (fun xs => settled_got (x :: xs)) t more
    · simp [takeReals]

theorem settled_takeFrames (n : Nat) : Settled (takeFrames (K := K) n) := by
  induction n with
  | zero => exact settled_got _
  | succ n ih =>
    rintro (_ | ⟨_ | l | _, _ | ⟨_ | r | _, t⟩⟩) more <;> try (simp [takeFrames]; done)
    exact settled_bind ih (fun fs => settled_got (⟨l, r⟩ :: fs)) t more

theorem settled_takeRecord (cfg : Config K) (op : Byte) : Settled (takeRecord cfg op) := by
  unfold takeRecord
  split
  · exact settled_bind settled_takeByte fun _ => settled_bind settled_takeByte fun _ =>
      settled_bind settled_takeByte fun _ => settled_bind settled_takeByte fun _ =>
      settled_bind settled_takeByte fun _ => settled_got _
  split
  · exact settled_bind settled_takeByte fun _ => settled_bind settled_takeByte fun _ =>
      settled_bind settled_takeByte fun _ => settled_bind (settled_takeBytes _) fun _ =>
      settled_bind (settled_takeBytes _) fun _ => settled_got _
  split
  · refine settled_bind settled_takeByte fun scope => ?_
    by_cases h0 : scope = 0x00
    · simp only [h0, if_true]; exact settled_got _
    · by_cases h1 : scope = 0x01
      · simp only [h1, if_true]; exact settled_got _
      · simp only [h0, h1, if_false]; exact settled_got _
  split
  · exact settled_bind settled_takeByte fun _ => settled_bind settled_takeByte fun _ =>
      settled_bind (settled_takeFrames _) fun _ => settled_bind (settled_takeReals _) fun _ => settled_got _
  split
  · exact settled_got _
  split
  · exact settled_bind settled_takeSnapshot fun _ => settled_got _
  split
  · exact settled_got _
  · exact settled_got _

/-- A whole record is read the same whatever follows it, and a wrong item stays wrong (30_encoding R138). -/
theorem settled_record (cfg : Config K) : Settled fun items => thenTake (takeByte items) (takeRecord cfg) :=
  settled_bind settled_takeByte (settled_takeRecord cfg)

/-! ## Rows -/

/-- The bytes of a row decode to the row. -/
@[simp] theorem puInstr_fieldAddress (f : Machine.ParamField) (ch vH vL : Byte) :
    puInstr ch (0#8) (Machine.fieldAddress f) vH vL = (paramInstr f ch vH vL : Instr K) := by
  simp only [puInstr, show Machine.descriptor (0#8) _ = _ from Machine.descriptor_fieldAddress f]

theorem puInstr_none {aH aL : Byte} (h : Machine.descriptor aH aL = none) (ch vH vL : Byte) :
    puInstr ch aH aL vH vL = (.pu ch aH aL vH vL : Instr K) := by
  simp [puInstr, h]

/-- A row is encoded at its address. -/
theorem encodeFor_paramInstr (cfg : Config K) (f : Machine.ParamField) (ch vH vL : Byte) :
    encodeFor cfg (paramInstr f ch vH vL) = encodeParam f ch vH vL := by
  cases f with
  | sys f => cases f <;> rfl
  | ch f => cases f <;> rfl

theorem wellFormedFor_paramInstr (cfg : Config K) (f : Machine.ParamField) (ch vH vL : Byte) :
    (paramInstr f ch vH vL : Instr K).wellFormedFor cfg = true := by
  cases f with
  | sys f => cases f <;> rfl
  | ch f => cases f <;> rfl

theorem vendorId_machine : Config.machine.vendorId = 0x43 := rfl

theorem pcSubstatus_machine : Config.machine.pcSubstatus = 0x10 := rfl

/-- The three layouts with a row of their own, and everything else, in a block with the given parameters. -/
theorem sxInstrFor_cases (cfg : Config K) (vendor body : List Byte) :
    (∃ dev aH aL value tail, vendor = [cfg.vendorId] ∧ body = dev :: cfg.pcSubstatus :: aH :: aL :: value :: tail ∧
      sxInstrFor cfg vendor body = .sxParamChange dev aH aL value tail) ∨
    (∃ dev records, cfg.pcSubstatus ≠ 0x00 ∧ vendor = [cfg.vendorId] ∧ body = dev :: 0x00 :: 0x03 :: records ∧
      sxInstrFor cfg vendor body = .sxBulkSystem dev records) ∨
    (∃ dev records, cfg.pcSubstatus ≠ 0x00 ∧ vendor = [cfg.vendorId] ∧ body = dev :: 0x00 :: 0x04 :: records ∧
      sxInstrFor cfg vendor body = .sxBulkChannel dev records) ∨
    (isNamedSysEx cfg vendor body = false ∧ sxInstrFor cfg vendor body = .sx vendor body) := by
  unfold sxInstrFor isNamedSysEx
  by_cases hv : vendor = [cfg.vendorId]
  · subst hv
    rcases body with _ | ⟨dev, _ | ⟨sub, rest⟩⟩
    · exact .inr (.inr (.inr (by simp)))
    · exact .inr (.inr (.inr (by simp)))
    · by_cases h1 : sub = cfg.pcSubstatus
      · subst h1
        rcases rest with _ | ⟨aH, _ | ⟨aL, _ | ⟨value, tail⟩⟩⟩
        · exact .inr (.inr (.inr (by simp)))
        · exact .inr (.inr (.inr (by simp)))
        · exact .inr (.inr (.inr (by simp)))
        · exact .inl ⟨dev, aH, aL, value, tail, rfl, rfl, by simp⟩
      · by_cases h2 : sub = 0#8
        · subst h2
          rcases rest with _ | ⟨kind, records⟩
          · exact .inr (.inr (.inr (by simp [h1])))
          · by_cases h3 : kind = 3#8
            · subst h3; exact .inr (.inl ⟨dev, records, Ne.symm h1, rfl, rfl, by simp [h1]⟩)
            · by_cases h4 : kind = 4#8
              · subst h4; exact .inr (.inr (.inl ⟨dev, records, Ne.symm h1, rfl, rfl, by simp [h1]⟩))
              · exact .inr (.inr (.inr (by simp [h1, h3, h4])))
        · exact .inr (.inr (.inr (by simp [h1, h2])))
  · exact .inr (.inr (.inr ⟨by simp [hv], if_neg hv⟩))

/-- A general SX of no named layout is itself. -/
theorem sxInstrFor_of_not_named {cfg : (Config K)} {vendor body : List Byte} (h : isNamedSysEx cfg vendor body = false) :
    sxInstrFor cfg vendor body = .sx vendor body := by
  rcases sxInstrFor_cases cfg vendor body with
    ⟨_, _, _, _, _, rfl, rfl, _⟩ | ⟨_, _, hp, rfl, rfl, _⟩ | ⟨_, _, hp, rfl, rfl, _⟩ | h'
  · simp [isNamedSysEx] at h
  · simp only [isNamedSysEx] at h; simp at h; exact absurd h.2.symm hp
  · simp only [isNamedSysEx] at h; simp at h; exact absurd h.2.symm hp
  · exact h'.2

/-- The layouts of the machine. -/
theorem sxInstr_cases (vendor body : List Byte) :
    (∃ dev aH aL value tail, vendor = [0x43] ∧ body = dev :: 0x10 :: aH :: aL :: value :: tail ∧
      sxInstr vendor body = .sxParamChange dev aH aL value tail) ∨
    (∃ dev records, vendor = [0x43] ∧ body = dev :: 0x00 :: 0x03 :: records ∧
      sxInstr vendor body = .sxBulkSystem dev records) ∨
    (∃ dev records, vendor = [0x43] ∧ body = dev :: 0x00 :: 0x04 :: records ∧
      sxInstr vendor body = .sxBulkChannel dev records) ∨
    (isNamedSysEx Config.machine vendor body = false ∧ sxInstr vendor body = .sx vendor body) := by
  rcases sxInstrFor_cases Config.machine vendor body with
    h | ⟨dev, records, -, h⟩ | ⟨dev, records, -, h⟩ | h
  · exact .inl h
  · exact .inr (.inl ⟨dev, records, h⟩)
  · exact .inr (.inr (.inl ⟨dev, records, h⟩))
  · exact .inr (.inr (.inr h))

/-- The count bytes of an SX record carry the lengths of its parts (30_encoding R133). -/
theorem takeSx_encode (cfg : Config K) {vendor body : List Byte} (hv : vendor.length < 256) (hb : body.length < 65536)
    (rest : List (PortItem K)) : decodeFor cfg (encodeSx vendor body ++ rest) = .instr (sxInstrFor cfg vendor body) rest := by
  have h1 : (BitVec.ofNat 8 vendor.length).toNat = vendor.length := by simp; omega
  have h2 : (BitVec.ofNat 8 (body.length / 256)).toNat * 256 + (BitVec.ofNat 8 (body.length % 256)).toNat
      = body.length := by simp; omega
  simp [decodeFor, encodeSx, takeRecord, takeSx, h1, h2, -BitVec.toNat_ofNat]

end Sys2Proof
end

