-- ==== Sys2Proof/Laws/Ring.lean ====
section
/-! SUPPORT. Ring memories: reading after writing, and the canonical form that every operation keeps. -/

namespace Sys2Proof.Machine

set_option linter.unusedSectionVars false

variable {K : Type} [Zero K] [One K] [Add K] [Sub K] [Mul K] [Div K] [Neg K] [NatCast K] [IntCast K] [Max K] [Min K]
  [LT K] [DecidableLT K] [DecidableEq K]

theorem ringWfFrom_mono {cap lo lo' : Nat} {b : (RingMemory K)} (h : ringWfFrom cap lo b = true) (hl : lo' ≤ lo) :
    ringWfFrom cap lo' b = true := by
  cases b with
  | nil => rfl
  | cons e t =>
    obtain ⟨j, u⟩ := e
    simp only [ringWfFrom, Bool.and_eq_true, decide_eq_true_eq] at h ⊢
    exact ⟨⟨⟨by omega, h.1.1.2⟩, h.1.2⟩, h.2⟩

/-- An index below every listed one holds 0. -/
theorem ringGet_below {cap lo : Nat} {b : (RingMemory K)} (h : ringWfFrom cap lo b = true) {i : Nat} (hi : i < lo) :
    ringGet b i = 0 := by
  induction b generalizing lo with
  | nil => rfl
  | cons e t ih =>
    obtain ⟨j, u⟩ := e
    simp only [ringWfFrom, Bool.and_eq_true, decide_eq_true_eq] at h
    have : i ≠ j := by omega
    simp only [ringGet, this, if_false]
    exact ih h.2 (by omega)

theorem ringPut_wfFrom {cap lo : Nat} {b : (RingMemory K)} (h : ringWfFrom cap lo b = true) {i : Nat} (hlo : lo ≤ i)
    (hi : i < cap) (v : K) : ringWfFrom cap lo (ringPut b i v) = true := by
  induction b generalizing lo with
  | nil =>
    by_cases hv : v = 0 <;> simp [ringPut, hv, ringWfFrom, hlo, hi]
  | cons e t ih =>
    obtain ⟨j, u⟩ := e
    have h0 := h
    simp only [ringWfFrom, Bool.and_eq_true, decide_eq_true_eq] at h
    obtain ⟨⟨⟨h1, h2⟩, h3⟩, h4⟩ := h
    simp only [ringPut]
    split
    · rename_i hij
      split
      · exact h0
      · rename_i hv
        simp only [ringWfFrom, Bool.and_eq_true, decide_eq_true_eq]
        exact ⟨⟨⟨hlo, hi⟩, hv⟩, ⟨⟨by omega, h2⟩, h3⟩, h4⟩
    · split
      · rename_i hij
        subst hij
        split
        · exact ringWfFrom_mono h4 (by omega)
        · rename_i hv
          simp only [ringWfFrom, Bool.and_eq_true, decide_eq_true_eq]
          exact ⟨⟨⟨hlo, hi⟩, hv⟩, h4⟩
      · simp only [ringWfFrom, Bool.and_eq_true, decide_eq_true_eq]
        exact ⟨⟨⟨h1, h2⟩, h3⟩, ih h4 (by omega)⟩

/-- Storing keeps the canonical form. -/
theorem ringPut_wf {cap : Nat} {b : (RingMemory K)} (h : ringWf cap b = true) {i : Nat} (hi : i < cap) (v : K) :
    ringWf cap (ringPut b i v) = true := ringPut_wfFrom h (Nat.zero_le i) hi v

theorem ringGet_ringPut_from {cap lo : Nat} {b : (RingMemory K)} (h : ringWfFrom cap lo b = true) (i : Nat) (v : K)
    (k : Nat) : ringGet (ringPut b i v) k = if k = i then v else ringGet b k := by
  induction b generalizing lo with
  | nil =>
    by_cases hv : v = 0 <;> by_cases hk : k = i <;> simp [ringPut, hv, ringGet, hk]
  | cons e t ih =>
    obtain ⟨j, u⟩ := e
    simp only [ringWfFrom, Bool.and_eq_true, decide_eq_true_eq] at h
    simp only [ringPut]
    split
    · rename_i hij
      have hget : ringGet t i = 0 := ringGet_below h.2 (by omega)
      split
      · rename_i hv
        by_cases hk : k = i
        · subst hk; simp [ringGet, hv, hget, Nat.ne_of_lt hij]
        · simp [hk]
      · by_cases hk : k = i <;> simp [ringGet, hk]
    · split
      · rename_i hij
        subst hij
        have hget : ringGet t i = 0 := ringGet_below h.2 (by omega)
        split
        · rename_i hv
          by_cases hk : k = i <;> simp [ringGet, hk, hv, hget]
        · by_cases hk : k = i <;> simp [ringGet, hk]
      · rename_i h1 h2
        by_cases hkj : k = j
        · have : k ≠ i := by omega
          simp [ringGet, hkj]
          intro h'; omega
        · simp only [ringGet, hkj, if_false, ih h.2]

/-- A read after a store: the stored value at the index, the old value elsewhere. -/
theorem ringGet_ringPut {cap : Nat} {b : (RingMemory K)} (h : ringWf cap b = true) (i : Nat) (v : K) (k : Nat) :
    ringGet (ringPut b i v) k = if k = i then v else ringGet b k := ringGet_ringPut_from h i v k

theorem ringIndex_lt {cap : Nat} (h : 0 < cap) (i : Int) : ringIndex cap i < cap := by
  unfold ringIndex
  have h1 := Int.emod_nonneg i (b := (cap : Int)) (by omega)
  have h2 := Int.emod_lt_of_pos i (b := (cap : Int)) (by omega)
  omega

@[simp] theorem ringIndex_natCast {cap w : Nat} (h : w < cap) : ringIndex cap (w : Int) = w := by
  unfold ringIndex
  rw [Int.emod_eq_of_lt (by omega) (by omega)]
  simp

theorem ringWrite_wf {cap : Nat} (hc : 0 < cap) {b : (RingMemory K)} (h : ringWf cap b = true) (i : Int) (v : K) :
    ringWf cap (ringWrite cap b i v) = true := ringPut_wf h (ringIndex_lt hc i) v

/-- RingRead after RingWrite (20_memory R101). -/
theorem ringRead_ringWrite {cap : Nat} {b : (RingMemory K)} (h : ringWf cap b = true) (i j : Int) (v : K) :
    ringRead cap (ringWrite cap b i v) j = if ringIndex cap j = ringIndex cap i then v else ringRead cap b j :=
  ringGet_ringPut h _ _ _

theorem advance_lt {cap : Nat} (h : 0 < cap) (w : Nat) : advance cap w < cap := Nat.mod_lt _ h

@[simp] theorem ringRead_emptyRing (cap : Nat) (i : Int) : ringRead cap ([] : RingMemory K) i = 0 := rfl

@[simp] theorem delayRead_emptyRing (cap w n : Nat) : delayRead cap ([] : RingMemory K) w n = 0 := rfl

@[simp] theorem ringWrite_zero_emptyRing (cap : Nat) (i : Int) : ringWrite cap ([] : RingMemory K) i 0 = [] := by
  simp [ringWrite, ringPut]

/-- Two indices name the same element exactly when they agree modulo the capacity (20_memory R101). -/
theorem ringIndex_eq_iff {cap : Nat} (hc : 0 < cap) (i j : Int) :
    ringIndex cap i = ringIndex cap j ↔ i % (cap : Int) = j % (cap : Int) := by
  unfold ringIndex
  have := Int.emod_nonneg i (b := (cap : Int)) (by omega)
  have := Int.emod_nonneg j (b := (cap : Int)) (by omega)
  omega

/-- A read after a write at a pointer below the capacity. -/
theorem ringRead_ringWrite_pointer {cap : Nat} {b : (RingMemory K)} {w j : Nat} (h : ringWf cap b = true) (hw : w < cap)
    (hj : j < cap) (v : K) : ringRead cap (ringWrite cap b w v) j = if j = w then v else ringRead cap b j := by
  rw [ringRead_ringWrite h, ringIndex_natCast hj, ringIndex_natCast hw]

theorem pushLine_wf {cap : Nat} (hc : 0 < cap) {line : (Line K)} (h : ringWf cap line.buf = true) (v : K) :
    ringWf cap (pushLine cap line v).buf = true := ringWrite_wf hc h _ v

@[simp] theorem pushLine_w (cap : Nat) (line : Line K) (v : K) :
    (pushLine cap line v).w = advance cap line.w := rfl

section Exact
variable {F : Type} [Field F] [LinearOrder F] [IsStrictOrderedRing F] [FloorRing F]

@[simp] theorem fracRead_emptyRing (n : Numerics F) (cap w : Nat) (d : F) : fracRead n cap [] w d = 0 := by
  simp [fracRead]

/-- FracRead with its clamped delay split into an integer and a fraction (20_memory R103). -/
theorem fracRead_eq {n : Numerics F} (hn : n.IsExact) {cap : Nat} {b : (RingMemory F)} {w : Nat} {d : F} {i : Int} {f : F}
    (h : clampScalar d 1 ((cap : F) - 2) = i + f) (h0 : 0 ≤ f) (h1 : f < 1) :
    fracRead n cap b w d = (1 - f) * ringRead cap b (w - i) + f * ringRead cap b (w - i - 1) := by
  have : n.floor (i + f) = i := by
    rw [hn.floor_eq, Int.floor_eq_iff]
    constructor <;> linarith
  simp only [fracRead, h, this]
  ring_nf

end Exact

end Sys2Proof.Machine
end

