-- ==== Sys2Proof/Laws/Runtime.lean ====
section
/-! SUPPORT. The runtime state: the capacities of the configuration, phases, and that every effect keeps pointers, phases
and ring memories legal. -/

namespace Sys2Proof.Machine

set_option linter.unusedSectionVars false

variable {K : Type} [Field K] [LinearOrder K] [IsStrictOrderedRing K] [FloorRing K]

/-! ## The configuration -/

/-- The capacities are positive. -/
structure Capacities (cfg : Config K) : Prop where
  pd : 0 < cfg.pdCap
  comb : 0 < cfg.combCap
  ap : ∀ j : Fin 4, 0 < cfg.apLen[j]
  chorus : 0 < cfg.chorusCap
  flanger : 0 < cfg.flangerCap

theorem capacities_r7 (num : Numerics K) (ext : ExtProcs K) : Capacities (Config.r7 num ext) :=
  ⟨by simp [Config.r7], by simp [Config.r7], by
    intro j
    match j with
    | 0 => simp [Config.r7]
    | 1 => simp [Config.r7]
    | 2 => simp [Config.r7]
    | 3 => simp [Config.r7], by simp [Config.r7], by simp [Config.r7]⟩

theorem capacities_machine : Capacities Config.machine := capacities_r7 _ _

/-- Exact arithmetic is exact. -/
theorem isExact_exact {pi : K} (h : 0 < pi) (f : Functions K) : (Numerics.exact pi f).IsExact := ⟨h, fun _ => rfl⟩

/-- The machine computes exactly. -/
theorem isExact_machine : Config.machine.num.IsExact := isExact_exact one_pos _

/-- The values of 00_scope R7 meet the constraints of 00_scope R7. -/
theorem admissible_r7 {num : Numerics K} (hn : num.IsExact) (ext : ExtProcs K) : (Config.r7 num ext).admissible = true := by
  simp only [Config.admissible, Config.r7, Numerics.ceil, hn.floor_eq, Int.floor_neg, neg_neg, Bool.and_eq_true,
    decide_eq_true_eq, Int.floor_lt, ← le_sub_iff_add_le, Int.ceil_le]
  norm_num

/-- The parameters of a block that was built. -/
theorem valid_iff (cfg : Config K) :
    cfg.valid = true ↔ cfg.admissible = true ∧ 1 ≤ cfg.pdCap ∧ 1 ≤ cfg.combCap ∧ 1 ≤ cfg.chorusCap ∧
      1 ≤ cfg.flangerCap ∧ phaseLegal cfg.num cfg.chorusRPhase0 := by
  simp only [Config.valid, phaseLegal, Bool.and_eq_true, decide_eq_true_eq, and_assoc, Bool.not_eq_true',
    decide_eq_false_iff_not, not_lt]

theorem valid_r7 {num : Numerics K} (hn : num.IsExact) (ext : ExtProcs K) : (Config.r7 num ext).valid = true :=
  (valid_iff _).2 ⟨admissible_r7 hn ext, by simp [Config.r7], by simp [Config.r7], by simp [Config.r7],
    by simp [Config.r7], by have := hn.pi_pos; simp only [phaseLegal, Config.r7]; constructor <;> linarith⟩

theorem valid_machine : Config.machine.valid = true := valid_r7 isExact_machine _

theorem capacities_of_valid {cfg : (Config K)} (h : cfg.valid = true) : Capacities cfg := by
  obtain ⟨ha, h1, h2, h3, h4, -⟩ := (valid_iff cfg).1 h
  refine ⟨h1, h2, fun j => ?_, h3, h4⟩
  simp only [Config.admissible, Bool.and_eq_true, List.all_eq_true, decide_eq_true_eq] at ha
  exact ha.1.1.1.1.1.1.1.1.1.2 _ (Vector.mem_toList_iff.2 (Vector.getElem_mem _))

/-! ## Phases -/

/-- The result of `mod` is in [0, n) (00_scope R8). -/
theorem modScalar_mem {n : Numerics K} (hn : n.IsExact) {a m : K} (hm : 0 < m) :
    0 ≤ modScalar n a m ∧ modScalar n a m < m := by
  unfold modScalar
  rw [hn.floor_eq]
  have h1 := Int.floor_le (a / m)
  have h2 := Int.lt_floor_add_one (a / m)
  rw [le_div_iff₀ hm] at h1
  rw [div_lt_iff₀ hm] at h2
  constructor <;> linarith

theorem modScalar_of_mem {n : Numerics K} (hn : n.IsExact) {a m : K} (h0 : 0 ≤ a) (h1 : a < m) :
    modScalar n a m = a := by
  unfold modScalar
  rw [hn.floor_eq]
  have : ⌊a / m⌋ = 0 := by
    rw [Int.floor_eq_zero_iff]
    exact ⟨div_nonneg h0 (by linarith), (div_lt_one (by linarith)).2 h1⟩
  simp [this]

/-- Wrapping once is one subtraction. -/
theorem modScalar_of_wrap {n : Numerics K} (hn : n.IsExact) {a m : K} (h0 : m ≤ a) (h1 : a < 2 * m) :
    modScalar n a m = a - m := by
  unfold modScalar
  rw [hn.floor_eq]
  have hm : 0 < m := by linarith
  have : ⌊a / m⌋ = 1 := by
    rw [Int.floor_eq_iff]
    push_cast
    exact ⟨by rw [le_div_iff₀ hm]; linarith, by rw [div_lt_iff₀ hm]; linarith⟩
  simp [this]

theorem phaseLegal_wrapAngle {n : Numerics K} (hn : n.IsExact) (a : Angle K) : phaseLegal n (wrapAngle n a) :=
  modScalar_mem hn (by have := hn.pi_pos; simp only [twoPi]; linarith)

/-- The phase 0, where a legal phase is anything at all. -/
theorem phaseLegal_zero {n : Numerics K} {ph : Angle K} (h : phaseLegal n ph) : phaseLegal n zeroAngle :=
  ⟨le_refl _, h.1.trans_lt h.2⟩

theorem phaseLegal_advancePhase {cfg : Config K} (hn : cfg.num.IsExact) (rate : K) (ph : Angle K) :
    phaseLegal cfg.num (advancePhase cfg rate ph) := phaseLegal_wrapAngle hn _

/-! ## Lines and rings -/

/-- A line is legal: its ring canonical, its pointer below the capacity. -/
def lineLegal (cap : Nat) (line : Line K) : Prop := ringWf cap line.buf = true ∧ line.w < cap

theorem lineLegal_pushLine {cap : Nat} (hc : 0 < cap) {line : (Line K)} (h : lineLegal cap line) (v : K) :
    lineLegal cap (pushLine cap line v) := ⟨ringWrite_wf hc h.1 _ _, advance_lt hc _⟩

/-- A legal reverb state. -/
structure ReverbLegal (cfg : Config K) (rv : ReverbState K) : Prop where
  pd : lineLegal cfg.pdCap rv.pd
  comb : ∀ k : Fin 8, lineLegal cfg.combCap rv.comb[k]
  ap : ∀ j : Fin 4, lineLegal cfg.apLen[j] rv.ap[j]

/-- A legal chorus state. -/
structure ChorusLegal (cfg : Config K) (st : ChorusState K) : Prop where
  bufL : ringWf cfg.chorusCap st.bufL = true
  bufR : ringWf cfg.chorusCap st.bufR = true
  w : st.w < cfg.chorusCap
  phL : phaseLegal cfg.num st.phL
  phR : phaseLegal cfg.num st.phR

/-- A legal slot, rings included. -/
structure SlotLegal (cfg : Config K) (s : Slot K) : Prop where
  memory : slotWf cfg s = true
  record : slotLegal cfg s

theorem memory_wf_iff (cfg : Config K) (rt : Runtime K) :
    Memory.wf cfg rt = true ↔ ringWf cfg.pdCap rt.rv.pd.buf = true ∧
      (∀ k : Fin 8, ringWf cfg.combCap rt.rv.comb[k].buf = true) ∧
      (∀ j : Fin 4, ringWf cfg.apLen[j] rt.rv.ap[j].buf = true) ∧
      ringWf cfg.chorusCap rt.chorus.bufL = true ∧ ringWf cfg.chorusCap rt.chorus.bufR = true ∧
      slotWf cfg rt.variation = true ∧ ∀ c : Fin 16, slotWf cfg rt.insertion[c] = true := by
  have hv : ∀ {α : Type} {n : Nat} (v : Vector α n) (p : α → Bool),
      v.toList.all p = true ↔ ∀ k : Fin n, p v[k] = true := by
    intro α n v p
    simp only [List.all_eq_true, Vector.mem_toList_iff]
    constructor
    · intro h k
      exact h _ (Vector.getElem_mem _)
    · intro h x hx
      obtain ⟨i, hi, rfl⟩ := Vector.mem_iff_getElem.1 hx
      exact h ⟨i, hi⟩
  unfold Memory.wf
  simp only [Bool.and_eq_true, hv, List.all_eq_true, List.mem_finRange, true_implies]
  tauto

/-- A legal runtime state, effect by effect. -/
theorem runtimeLegal_iff (cfg : Config K) (rt : Runtime K) :
    RuntimeLegal cfg rt ↔ ReverbLegal cfg rt.rv ∧ ChorusLegal cfg rt.chorus ∧ SlotLegal cfg rt.variation ∧
      ∀ c : Fin 16, SlotLegal cfg rt.insertion[c] := by
  constructor
  · intro h
    obtain ⟨h1, h2, h3, h4, h5, h6, h7⟩ := (memory_wf_iff cfg rt).1 h.memory
    exact ⟨⟨⟨h1, h.predelay⟩, fun k => ⟨h2 k, h.comb k⟩, fun j => ⟨h3 j, h.allpass j⟩⟩,
      ⟨h4, h5, h.chorus, h.phaseL, h.phaseR⟩, ⟨h6, h.variation⟩, fun c => ⟨h7 c, h.insertion c⟩⟩
  · rintro ⟨h1, h2, h3, h4⟩
    exact ⟨(memory_wf_iff cfg rt).2 ⟨h1.pd.1, fun k => (h1.comb k).1, fun j => (h1.ap j).1, h2.bufL, h2.bufR, h3.memory,
        fun c => (h4 c).memory⟩,
      h1.pd.2, fun k => (h1.comb k).2, fun j => (h1.ap j).2, h2.w, h2.phL, h2.phR, h3.record, fun c => (h4 c).record⟩

/-! ## Effects -/

/-- An element of a vector given by a function. -/
theorem getElem_ofFn_fin {α : Type} {n : Nat} (f : Fin n → α) (k : Fin n) : (Vector.ofFn f)[k] = f k := by
  simp

theorem lineLegal_combLane {cfg : (Config K)} (hc : 0 < cfg.combCap) (p : ReverbParams K) (comb : Vector (Line K) 8) (q : K)
    (k : Fin 8) (h : lineLegal cfg.combCap comb[k]) : lineLegal cfg.combCap (combLane cfg p comb q k).2 := by
  unfold combLane
  split
  · exact lineLegal_pushLine hc h _
  · exact h

/-- The reverb keeps its pointers and rings legal. -/
theorem reverbLegal_fxReverb {cfg : (Config K)} (hc : Capacities cfg) (p : ReverbParams K) {rv : (ReverbState K)}
    (h : ReverbLegal cfg rv) (x : Stereo K) : ReverbLegal cfg (fxReverb cfg p rv x).2 where
  pd := ⟨ringWrite_wf hc.pd h.pd.1 _ _, advance_lt hc.pd _⟩
  comb k := by
    show lineLegal _ (Vector.ofFn _)[k]
    rw [getElem_ofFn_fin]
    exact lineLegal_combLane hc.comb _ _ _ _ (h.comb k)
  ap j := by
    match j with
    | 0 => exact lineLegal_pushLine (hc.ap 0) (h.ap 0) _
    | 1 => exact lineLegal_pushLine (hc.ap 1) (h.ap 1) _
    | 2 => exact lineLegal_pushLine (hc.ap 2) (h.ap 2) _
    | 3 => exact lineLegal_pushLine (hc.ap 3) (h.ap 3) _

/-- The chorus keeps its pointer, phases and rings legal. -/
theorem chorusLegal_fxChorus {cfg : (Config K)} (hn : cfg.num.IsExact) (hc : Capacities cfg) (p : ChorusParams K) {st :
    (ChorusState K)}
    (h : ChorusLegal cfg st) (x : Stereo K) : ChorusLegal cfg (fxChorus cfg p st x).2 where
  bufL := ringWrite_wf hc.chorus h.bufL _ _
  bufR := ringWrite_wf hc.chorus h.bufR _ _
  w := advance_lt hc.chorus _
  phL := phaseLegal_advancePhase hn _ _
  phR := phaseLegal_advancePhase hn _ _

/-- A processor replaces at most the record of its own type. -/
theorem runProcessor_cases (cfg : Config K) (t : Int) (x : Stereo K) (p : GenericParams K) (slot : Slot K) :
    (runProcessor cfg t x p slot).2 = slot ∨
    (t = 1 ∧ (runProcessor cfg t x p slot).2 = { slot with flanger := (procFlanger cfg x p slot.flanger).2 }) ∨
    (t = 3 ∧ (runProcessor cfg t x p slot).2 = { slot with compressor := (procCompressor cfg x p slot.compressor).2 }) ∨
    (t = 4 ∧ (runProcessor cfg t x p slot).2 = { slot with gate := (procGate cfg x p slot.gate).2 }) ∨
    (5 ≤ t ∧ ∃ ext, (runProcessor cfg t x p slot).2 = { slot with ext := ext }) := by
  unfold runProcessor
  split
  · exact .inl rfl
  split
  · rename_i h; exact .inr (.inl ⟨h, rfl⟩)
  split
  · exact .inl rfl
  split
  · rename_i h; exact .inr (.inr (.inl ⟨h, rfl⟩))
  split
  · rename_i h; exact .inr (.inr (.inr (.inl ⟨h, rfl⟩)))
  · unfold procExternal
    split
    · rename_i h; exact .inr (.inr (.inr (.inr ⟨h.2, _, rfl⟩)))
    · exact .inl rfl

/-- Every processor keeps its slot's pointer, phase and rings legal. -/
theorem slotLegal_runProcessor {cfg : (Config K)} (hn : cfg.num.IsExact) (hc : Capacities cfg) (t : Int) (x : Stereo K)
    (p : GenericParams K)
    {slot : (Slot K)} (h : SlotLegal cfg slot) : SlotLegal cfg (runProcessor cfg t x p slot).2 := by
  rcases runProcessor_cases cfg t x p slot with e | ⟨_, e⟩ | ⟨_, e⟩ | ⟨_, e⟩ | ⟨_, _, e⟩ <;> rw [e]
  · exact h
  · obtain ⟨h1, h2⟩ := h
    simp only [slotWf, Bool.and_eq_true] at h1
    refine ⟨?_, advance_lt hc.flanger _, phaseLegal_advancePhase hn _ _⟩
    simp only [slotWf, Bool.and_eq_true]
    exact ⟨ringWrite_wf hc.flanger h1.1 _ _, ringWrite_wf hc.flanger h1.2 _ _⟩
  · exact ⟨h.1, h.2⟩
  · exact ⟨h.1, h.2⟩
  · exact ⟨h.1, h.2⟩

theorem slotLegal_fxVariation {cfg : (Config K)} (hn : cfg.num.IsExact) (hc : Capacities cfg) (p : VariationParams K)
    {slot : (Slot K)}
    (h : SlotLegal cfg slot) (x : Stereo K) : SlotLegal cfg (fxVariation cfg p slot x).2 := by
  unfold fxVariation
  split
  · exact h
  · exact slotLegal_runProcessor hn hc _ _ _ h

theorem slotLegal_insertionStage {cfg : (Config K)} (hn : cfg.num.IsExact) (hc : Capacities cfg) (bank : Channel K) {slot :
    (Slot K)}
    (h : SlotLegal cfg slot) (x : Stereo K) : SlotLegal cfg (insertionStage cfg bank slot x).2 := by
  unfold insertionStage
  split
  · exact slotLegal_runProcessor hn hc _ _ _ h
  · exact h

theorem slotLegal_channelInsertion {cfg : (Config K)} (hn : cfg.num.IsExact) (hc : Capacities cfg) (ch : Vector (Channel K) 16)
    {slots : Vector (Slot K) 16} (frames : List (Stereo K)) (c : Fin 16) (h : SlotLegal cfg slots[c]) :
    SlotLegal cfg (channelInsertion cfg ch slots frames c).2 := by
  unfold channelInsertion
  split
  · exact slotLegal_insertionStage hn hc _ h _
  · exact h

/-- One effect keeps the runtime state legal. -/
theorem runtimeLegal_effectStep {cfg : (Config K)} (hn : cfg.num.IsExact) (hc : Capacities cfg) (p : Params K) (e : Effect)
    (x : Stereo K)
    {rt : (Runtime K)} (h : RuntimeLegal cfg rt) : RuntimeLegal cfg (effectStep cfg p e x rt).2 := by
  rw [runtimeLegal_iff] at h ⊢
  obtain ⟨h1, h2, h3, h4⟩ := h
  cases e
  · exact ⟨reverbLegal_fxReverb hc _ h1 _, h2, h3, h4⟩
  · exact ⟨h1, chorusLegal_fxChorus hn hc _ h2 _, h3, h4⟩
  · exact ⟨h1, h2, slotLegal_fxVariation hn hc _ h3 _, h4⟩

/-- One turn of Route keeps the runtime state legal. -/
theorem runtimeLegal_routeStage {cfg : (Config K)} (hn : cfg.num.IsExact) (hc : Capacities cfg) (p : Params K) (e : Effect)
    (send : K)
    {r : (RouteState K)} (h : RuntimeLegal cfg r.rt) : RuntimeLegal cfg (routeStage cfg p e send r).rt :=
  runtimeLegal_effectStep hn hc p e _ h

/-- Route keeps the runtime state legal. -/
theorem runtimeLegal_route {cfg : (Config K)} (hn : cfg.num.IsExact) (hc : Capacities cfg) (p : Params K) (bus : Stereo K)
    {rt : (Runtime K)}
    (h : RuntimeLegal cfg rt) : RuntimeLegal cfg (route cfg p bus rt).2 := by
  have h3 : RuntimeLegal cfg (routeEffects cfg p bus rt).rt :=
    runtimeLegal_routeStage hn hc p _ _ (runtimeLegal_routeStage hn hc p _ _ (runtimeLegal_routeStage hn hc p _ _ h))
  rw [runtimeLegal_iff] at h3 ⊢
  exact h3

/-- A frame keeps the runtime state legal (10_state R74, R75, R78). -/
theorem runtimeLegal_processFrame {cfg : (Config K)} (hn : cfg.num.IsExact) (hc : Capacities cfg) (p : Params K)
    (ch : Vector (Channel K) 16)
    (frames : List (Stereo K)) (levels : List K) {rt : (Runtime K)} (h : RuntimeLegal cfg rt) :
    RuntimeLegal cfg (processFrame cfg p ch frames levels rt).rt := by
  have h' : RuntimeLegal cfg { rt with insertion := Vector.ofFn fun c =>
      (channelInsertion cfg ch rt.insertion frames c).2 } := by
    rw [runtimeLegal_iff] at h ⊢
    refine ⟨h.1, h.2.1, h.2.2.1, fun c => ?_⟩
    show SlotLegal cfg (Vector.ofFn _)[c]
    rw [getElem_ofFn_fin]
    exact slotLegal_channelInsertion hn hc _ _ _ (h.2.2.2 c)
  unfold processFrame systemStage
  simp only
  split
  · exact runtimeLegal_route hn hc _ _ h'
  · exact h'

/-- The runtime state after reset is legal. -/
theorem runtimeLegal_reset {cfg : (Config K)} (hc : Capacities cfg)
    (hp : phaseLegal cfg.num cfg.chorusRPhase0) : RuntimeLegal cfg (resetRuntime cfg) := by
  have hs : SlotLegal cfg (resetSlot cfg) := ⟨rfl, hc.flanger, phaseLegal_zero hp⟩
  rw [runtimeLegal_iff]
  refine ⟨⟨⟨rfl, hc.pd⟩, fun k => ?_, fun j => ?_⟩, ⟨rfl, rfl, hc.chorus, phaseLegal_zero hp, hp⟩, hs, fun c => ?_⟩
  · simp only [resetRuntime, Fin.getElem_fin, Vector.getElem_replicate]
    exact ⟨rfl, hc.comb⟩
  · simp only [resetRuntime, Fin.getElem_fin, Vector.getElem_replicate]
    exact ⟨rfl, hc.ap j⟩
  · simp only [resetRuntime, Fin.getElem_fin, Vector.getElem_replicate]
    exact hs

/-- The reset memory is in its canonical form. -/
theorem memory_wf_reset : Memory.wf Config.machine State.reset.rt = true := by
  exact (runtimeLegal_reset capacities_machine ((valid_iff _).1 valid_machine).2.2.2.2.2).memory

end Sys2Proof.Machine
end

