-- ==== Sys2Proof/Laws/State.lean ====
section
/-! SUPPORT. One lemma per field per state update, so that no later proof unfolds a record update. -/

namespace Sys2Proof.Machine

set_option linter.unusedSectionVars false

variable {K : Type} [Zero K] [One K] [Add K] [Sub K] [Mul K] [Div K] [Neg K] [NatCast K] [IntCast K] [Max K] [Min K]
  [LT K] [DecidableLT K] [DecidableEq K]

/-! ## answer -/

@[simp] theorem answer_p (r : Result K) (s : State K) : (answer r s).p = s.p := rfl
@[simp] theorem answer_ch (r : Result K) (s : State K) : (answer r s).ch = s.ch := rfl
@[simp] theorem answer_rt (r : Result K) (s : State K) : (answer r s).rt = s.rt := rfl
@[simp] theorem answer_port (r : Result K) (s : State K) : (answer r s).port = s.port := rfl
@[simp] theorem answer_result (r : Result K) (s : State K) : (answer r s).result = some r := rfl

/-! ## raiseContractError -/

@[simp] theorem raiseContractError_p (c : ContractCode) (s : State K) : (raiseContractError c s).p = s.p := rfl
@[simp] theorem raiseContractError_ch (c : ContractCode) (s : State K) : (raiseContractError c s).ch = s.ch := rfl
@[simp] theorem raiseContractError_rt (c : ContractCode) (s : State K) : (raiseContractError c s).rt = s.rt := rfl
@[simp] theorem raiseContractError_port (c : ContractCode) (s : State K) : (raiseContractError c s).port = s.port := rfl
@[simp] theorem raiseContractError_result (c : ContractCode) (s : State K) :
    (raiseContractError c s).result = some (.error c) := rfl

/-! ## storeSnapshot and resetBlock -/

@[simp] theorem storeSnapshot_p (n : Snapshot K) (s : State K) : (storeSnapshot n s).p = n.p := rfl
@[simp] theorem storeSnapshot_ch (n : Snapshot K) (s : State K) : (storeSnapshot n s).ch = n.ch := rfl
@[simp] theorem storeSnapshot_rt (n : Snapshot K) (s : State K) : (storeSnapshot n s).rt = s.rt := rfl
@[simp] theorem storeSnapshot_port (n : Snapshot K) (s : State K) : (storeSnapshot n s).port = s.port := rfl
@[simp] theorem storeSnapshot_result (n : Snapshot K) (s : State K) : (storeSnapshot n s).result = s.result := rfl
@[simp] theorem resetBlock_p (cfg : Config K) (s : State K) : (resetBlock cfg s).p = resetParams := rfl
@[simp] theorem resetBlock_ch (cfg : Config K) (s : State K) :
    (resetBlock cfg s).ch = Vector.replicate 16 resetChannel := rfl
@[simp] theorem resetBlock_rt (cfg : Config K) (s : State K) : (resetBlock cfg s).rt = resetRuntime cfg := rfl
@[simp] theorem resetBlock_port (cfg : Config K) (s : State K) : (resetBlock cfg s).port = s.port := rfl
@[simp] theorem resetBlock_result (cfg : Config K) (s : State K) : (resetBlock cfg s).result = s.result := rfl

/-! ## modifyBank -/

@[simp] theorem modifyBank_p (c : Nat) (f : Channel K → Channel K) (s : State K) : (modifyBank c f s).p = s.p := by
  unfold modifyBank; split <;> rfl
@[simp] theorem modifyBank_rt (c : Nat) (f : Channel K → Channel K) (s : State K) : (modifyBank c f s).rt = s.rt := by
  unfold modifyBank; split <;> rfl
@[simp] theorem modifyBank_port (c : Nat) (f : Channel K → Channel K) (s : State K) :
    (modifyBank c f s).port = s.port := by unfold modifyBank; split <;> rfl
@[simp] theorem modifyBank_result (c : Nat) (f : Channel K → Channel K) (s : State K) :
    (modifyBank c f s).result = s.result := by unfold modifyBank; split <;> rfl

/-- A bank after a change of bank c: changed if it is bank c, else as it was. -/
theorem modifyBank_get (c : Nat) (f : Channel K → Channel K) (s : State K) (d : Fin 16) :
    (modifyBank c f s).ch[d] = if d.val = c then f s.ch[d] else s.ch[d] := by
  unfold modifyBank
  split
  · by_cases hd : d.val = c
    · subst hd; simp
    · simp only [Fin.getElem_fin, hd, if_false]
      rw [Vector.getElem_set_ne]; exact fun h => hd h.symm
  · have : d.val ≠ c := by omega
    simp [this]

/-! ## writeField -/

@[simp] theorem writeField_sys_p (f : SysField) (c : Nat) (x : Value K) (s : State K) :
    (writeField (.sys f) c x s).p = writeSys s.p f x := rfl
@[simp] theorem writeField_sys_ch (f : SysField) (c : Nat) (x : Value K) (s : State K) :
    (writeField (.sys f) c x s).ch = s.ch := rfl
@[simp] theorem writeField_ch_p (f : ChField) (c : Nat) (x : Value K) (s : State K) :
    (writeField (.ch f) c x s).p = s.p := by simp [writeField]
@[simp] theorem writeField_rt (f : ParamField) (c : Nat) (x : Value K) (s : State K) : (writeField f c x s).rt = s.rt := by
  cases f <;> simp [writeField]
@[simp] theorem writeField_port (f : ParamField) (c : Nat) (x : Value K) (s : State K) :
    (writeField f c x s).port = s.port := by cases f <;> simp [writeField]
@[simp] theorem writeField_result (f : ParamField) (c : Nat) (x : Value K) (s : State K) :
    (writeField f c x s).result = s.result := by cases f <;> simp [writeField]

/-- A bank after a channel write. -/
theorem writeField_ch_get (f : ChField) (c : Nat) (x : Value K) (s : State K) (d : Fin 16) :
    (writeField (.ch f) c x s).ch[d] = if d.val = c then writeCh s.ch[d] f x else s.ch[d] :=
  modifyBank_get c _ s d

/-! ## paramWrite, parameterUpdate, applyWrites: only P and CH change -/

@[simp] theorem paramWrite_rt (f : ParamField) (ch vH vL : Byte) (s : State K) : (paramWrite f ch vH vL s).rt = s.rt := by
  unfold paramWrite; split <;> simp
@[simp] theorem paramWrite_port (f : ParamField) (ch vH vL : Byte) (s : State K) :
    (paramWrite f ch vH vL s).port = s.port := by unfold paramWrite; split <;> simp
@[simp] theorem paramWrite_result (f : ParamField) (ch vH vL : Byte) (s : State K) :
    (paramWrite f ch vH vL s).result = s.result := by unfold paramWrite; split <;> simp
@[simp] theorem parameterUpdate_rt (ch aH aL vH vL : Byte) (s : State K) :
    (parameterUpdate ch aH aL vH vL s).rt = s.rt := by unfold parameterUpdate; split <;> simp
@[simp] theorem parameterUpdate_port (ch aH aL vH vL : Byte) (s : State K) :
    (parameterUpdate ch aH aL vH vL s).port = s.port := by unfold parameterUpdate; split <;> simp
@[simp] theorem parameterUpdate_result (ch aH aL vH vL : Byte) (s : State K) :
    (parameterUpdate ch aH aL vH vL s).result = s.result := by unfold parameterUpdate; split <;> simp

@[simp] theorem applyWrite_rt (s : State K) (w : FieldWrite) : (applyWrite s w).rt = s.rt := by simp [applyWrite]
@[simp] theorem applyWrite_port (s : State K) (w : FieldWrite) : (applyWrite s w).port = s.port := by simp [applyWrite]
@[simp] theorem applyWrite_result (s : State K) (w : FieldWrite) : (applyWrite s w).result = s.result := by
  simp [applyWrite]

@[simp] theorem applyWrites_nil (s : State K) : applyWrites [] s = s := rfl
@[simp] theorem applyWrites_cons (w : FieldWrite) (ws : List FieldWrite) (s : State K) :
    applyWrites (w :: ws) s = applyWrites ws (applyWrite s w) := rfl
@[simp] theorem applyWrites_rt (ws : List FieldWrite) (s : State K) : (applyWrites ws s).rt = s.rt := by
  induction ws generalizing s with
  | nil => rfl
  | cons w ws ih => simp [ih]
@[simp] theorem applyWrites_port (ws : List FieldWrite) (s : State K) : (applyWrites ws s).port = s.port := by
  induction ws generalizing s with
  | nil => rfl
  | cons w ws ih => simp [ih]
@[simp] theorem applyWrites_result (ws : List FieldWrite) (s : State K) : (applyWrites ws s).result = s.result := by
  induction ws generalizing s with
  | nil => rfl
  | cons w ws ih => simp [ih]

/-! ## sysEx -/

/-- What a SysEx message can do: nothing, one PU with the channel absent, or the records of a dump in order. -/
theorem sysEx_cases (cfg : Config K) (vendor body : List Byte) (s : State K) :
    sysEx cfg vendor body s = s ∨
    (∃ aH aL value, sysEx cfg vendor body s = parameterUpdate 0xFF aH aL value 0x00 s) ∨
    (∃ records, sysEx cfg vendor body s = applyWrites (systemWrites records) s) ∨
    (∃ records, sysEx cfg vendor body s = applyWrites (channelWrites records) s) := by
  unfold sysEx
  split
  · split
    · split
      · split
        · exact .inr (.inl ⟨_, _, _, rfl⟩)
        · exact .inl rfl
      · split
        · split
          · split
            · exact .inr (.inr (.inl ⟨_, rfl⟩))
            · split
              · exact .inr (.inr (.inr ⟨_, rfl⟩))
              · exact .inl rfl
          · exact .inl rfl
        · exact .inl rfl
    · exact .inl rfl
  · exact .inl rfl

@[simp] theorem sysEx_rt (cfg : Config K) (vendor body : List Byte) (s : State K) :
    (sysEx cfg vendor body s).rt = s.rt := by
  rcases sysEx_cases cfg vendor body s with h | ⟨_, _, _, h⟩ | ⟨_, h⟩ | ⟨_, h⟩ <;> simp [h]
@[simp] theorem sysEx_port (cfg : Config K) (vendor body : List Byte) (s : State K) :
    (sysEx cfg vendor body s).port = s.port := by
  rcases sysEx_cases cfg vendor body s with h | ⟨_, _, _, h⟩ | ⟨_, h⟩ | ⟨_, h⟩ <;> simp [h]

/-! ## processCommand -/

/-- What PROC can do: raise a contract error, or answer one frame. -/
theorem processCommand_cases (cfg : Config K) (frames : List (Stereo K)) (levels : List K) (s : State K) :
    (∃ code, checkContract frames.length levels.length = some code ∧
      processCommand cfg frames levels s = raiseContractError code s) ∨
    (checkContract frames.length levels.length = none ∧
      processCommand cfg frames levels s =
        answer (.frames (processFrame cfg s.p s.ch frames levels s.rt).out)
          { s with rt := (processFrame cfg s.p s.ch frames levels s.rt).rt }) := by
  unfold processCommand
  split
  · rename_i code h; exact .inl ⟨code, h, rfl⟩
  · rename_i h; exact .inr ⟨h, rfl⟩

@[simp] theorem processCommand_p (cfg : Config K) (fs : List (Stereo K)) (ls : List K) (s : State K) :
    (processCommand cfg fs ls s).p = s.p := by
  rcases processCommand_cases cfg fs ls s with ⟨_, _, h⟩ | ⟨_, h⟩ <;> simp [h]
@[simp] theorem processCommand_ch (cfg : Config K) (fs : List (Stereo K)) (ls : List K) (s : State K) :
    (processCommand cfg fs ls s).ch = s.ch := by
  rcases processCommand_cases cfg fs ls s with ⟨_, _, h⟩ | ⟨_, h⟩ <;> simp [h]
@[simp] theorem processCommand_port (cfg : Config K) (fs : List (Stereo K)) (ls : List K) (s : State K) :
    (processCommand cfg fs ls s).port = s.port := by
  rcases processCommand_cases cfg fs ls s with ⟨_, _, h⟩ | ⟨_, h⟩ <;> simp [h]

/-! ## step: one inversion lemma -/

/-- What a step can do, whatever performs a command. -/
theorem performRecord_cases (perform : Instr K → State K → Host.Outcome (State K) Fault Refusal) (d : Decoded K) (s : State K) :
    (∃ i rest, d = .instr i rest ∧ performRecord perform d s = perform i { s with port := rest }) ∨
    (∃ rest, d = .refused rest ∧ performRecord perform d s = .next (answer .refused { s with port := rest })) ∨
    (d = .incomplete ∧ performRecord perform d s = .next s) ∨
    (d = .wrongItem ∧ performRecord perform d s = .fault .wrongItem) := by
  cases d with
  | instr i rest => exact .inl ⟨i, rest, rfl, rfl⟩
  | refused rest => exact .inr (.inl ⟨rest, rfl, rfl⟩)
  | incomplete => exact .inr (.inr (.inl ⟨rfl, rfl⟩))
  | wrongItem => exact .inr (.inr (.inr ⟨rfl, rfl⟩))

/-- What one step of the machine can do. -/
theorem step_cases (s : State) :
    (∃ i rest, decode s.port = .instr i rest ∧ step s = exec i { s with port := rest }) ∨
    (∃ rest, decode s.port = .refused rest ∧ step s = .next (answer .refused { s with port := rest })) ∨
    (decode s.port = .incomplete ∧ step s = .next s) ∨
    (decode s.port = .wrongItem ∧ step s = .fault .wrongItem) := performRecord_cases exec _ s

end Sys2Proof.Machine
end

