-- ==== Sys2Proof/Laws/Update.lean ====
section
/-! SUPPORT. What the shared operations behind PU can do: admissibility, resolution, the write of one row; and what `exec`
answers for the rows. -/

namespace Sys2Proof.Machine

set_option linter.unusedSectionVars false

variable {K : Type} [Zero K] [One K] [Add K] [Sub K] [Mul K] [Div K] [Neg K] [NatCast K] [IntCast K] [Max K] [Min K]
  [LT K] [DecidableLT K] [DecidableEq K]

/-- Admissibility (40_protocol R182). -/
theorem admissible_iff (ch vH vL : Byte) :
    admissible ch vH vL = true ↔ vH.toNat ≤ 127 ∧ vL.toNat ≤ 127 ∧ (ch.toNat ≤ 15 ∨ ch = 0xFF) := by
  simp [admissible, isDataByte, and_assoc]

/-- A row of the table is the write of its field, with result OK. -/
theorem exec_paramInstr (f : ParamField) (ch vH vL : Byte) (s : State) :
    exec (paramInstr f ch vH vL) s = .next (answer .ok (paramWrite f ch vH vL s)) := by
  cases f with
  | sys f => cases f <;> rfl
  | ch f => cases f <;> rfl

theorem exec_pu (ch aH aL vH vL : Byte) (s : State) :
    exec (.pu ch aH aL vH vL) s = .next (answer .ok (parameterUpdate ch aH aL vH vL s)) := rfl

/-- The write of a row is dropped, or writes its field in the resolved bank. -/
theorem paramWrite_of_admissible (f : ParamField) {ch vH vL : Byte} (h : admissible ch vH vL = true) (s : State K) :
    paramWrite f ch vH vL s =
      writeField f (resolveChannel ch s) (decodeValue (fieldTransform f) (value14 vH vL)) s := by
  simp [paramWrite, h]

theorem paramWrite_of_not_admissible (f : ParamField) {ch vH vL : Byte} (h : admissible ch vH vL = false) (s : State K) :
    paramWrite f ch vH vL s = s := by simp [paramWrite, h]

/-- A PU is the write of the row at its address, or nothing. -/
theorem parameterUpdate_cases (ch aH aL vH vL : Byte) (s : State K) :
    (∃ f, aH = 0 ∧ aL = fieldAddress f ∧ parameterUpdate ch aH aL vH vL s = paramWrite f ch vH vL s) ∨
    ((aH ≠ 0 ∨ ∀ f, fieldAddress f ≠ aL) ∧ parameterUpdate ch aH aL vH vL s = s) := by
  unfold parameterUpdate
  cases hd : descriptor aH aL with
  | none => exact .inr ⟨descriptor_eq_none.1 hd, rfl⟩
  | some f =>
    obtain ⟨h1, h2⟩ := descriptor_eq_some.1 hd
    exact .inl ⟨f, h1, h2.symm, rfl⟩

/-- An explicit channel, and the cursor where it is absent, name their bank (40_protocol R181). -/
theorem resolveChannel_eq {ch : Byte} {s : (State K)} {c : Fin 16}
    (h : ch.toNat = c.val ∨ (ch = 0xFF ∧ s.p.global.currentChannel = (c.val : Int))) :
    resolveChannel ch s = c.val := by
  unfold resolveChannel
  rcases h with h | ⟨rfl, h⟩
  · rw [if_neg]
    · exact h
    · rintro rfl
      have := c.isLt
      simp at h
      omega
  · rw [if_pos rfl, h, if_neg (by omega)]
    simp

theorem writeField_sys (f : SysField) (c : Nat) (x : Value K) (s : State K) :
    writeField (.sys f) c x s = { s with p := writeSys s.p f x } := rfl

theorem writeField_ch (f : ChField) (c : Fin 16) (x : Value K) (s : State K) :
    writeField (.ch f) c.val x s = { s with ch := s.ch.set c (writeCh s.ch[c] f x) } := by
  simp [writeField, modifyBank]

/-- A field write is the write of one system field, of one field of one bank, or nothing. -/
theorem writeField_cases (f : ParamField) (c : Nat) (x : Value K) (s : State K) :
    (∃ g, f = .sys g ∧ writeField f c x s = { s with p := writeSys s.p g x }) ∨
    (∃ (g : ChField) (d : Fin 16), f = .ch g ∧ c = d.val ∧
      writeField f c x s = { s with ch := s.ch.set d (writeCh s.ch[d] g x) }) ∨
    writeField f c x s = s := by
  cases f with
  | sys g => exact .inl ⟨g, rfl, rfl⟩
  | ch g =>
    by_cases hc : c < 16
    · exact .inr (.inl ⟨g, ⟨c, hc⟩, rfl, rfl, writeField_ch g ⟨c, hc⟩ x s⟩)
    · exact .inr (.inr (by simp [writeField, modifyBank, hc]))

/-- A bank after the write of one bank. -/
theorem getElem_set_bank {α : Type} (v : Vector α 16) (c d : Fin 16) (x : α) :
    (v.set c x)[d] = if d = c then x else v[d] := by
  by_cases h : d = c
  · subst h; simp
  · rw [if_neg h]
    exact Vector.getElem_set_ne _ _ fun e => h (Fin.ext e.symm)

end Sys2Proof.Machine
end

