-- ==== Sys2Proof/Laws/Block.lean ====
section
/-! SUPPORT. The block under any parameters: the machine is the block under the third column of 00_scope R7, and what a step
of a block can do. -/

namespace Sys2Proof.Machine

set_option linter.unusedSectionVars false

variable {K : Type} [Zero K] [One K] [Add K] [Sub K] [Mul K] [Div K] [Neg K] [NatCast K] [IntCast K] [Max K] [Min K]
  [LT K] [DecidableLT K] [DecidableEq K]

/-- An instruction of the machine is the block's under the third column of 00_scope R7. -/
@[simp] theorem execFor_machine (i : Instr) (s : State) : execFor Config.machine i s = exec i s := by
  cases i <;> rfl

/-- A step of the machine is the block's under the third column of 00_scope R7. -/
theorem stepFor_machine (s : State) : stepFor Config.machine s = step s := by
  unfold stepFor step
  rw [show execFor Config.machine = exec from funext fun i => funext fun s => execFor_machine i s]
  rfl

/-- What one step of a block can do. -/
theorem stepFor_cases (cfg : Config K) (s : State K) :
    (∃ i rest, decodeFor cfg s.port = .instr i rest ∧ stepFor cfg s = execFor cfg i { s with port := rest }) ∨
    (∃ rest, decodeFor cfg s.port = .refused rest ∧ stepFor cfg s = .next (answer .refused { s with port := rest })) ∨
    (decodeFor cfg s.port = .incomplete ∧ stepFor cfg s = .next s) ∨
    (decodeFor cfg s.port = .wrongItem ∧ stepFor cfg s = .fault .wrongItem) := performRecord_cases (execFor cfg) _ s

/-- Every instruction is a row of the parameter table or one of the eleven others. -/
theorem instr_cases (i : Instr K) :
    (∃ f ch vH vL, i = paramInstr f ch vH vL) ∨ (∃ ch aH aL vH vL, i = .pu ch aH aL vH vL) ∨
    (∃ vendor body, i = .sx vendor body) ∨ (∃ dev aH aL value tail, i = .sxParamChange dev aH aL value tail) ∨
    (∃ dev records, i = .sxBulkSystem dev records) ∨ (∃ dev records, i = .sxBulkChannel dev records) ∨
    i = .encSys ∨ i = .encChan ∨ (∃ frames levels, i = .proc frames levels) ∨ i = .get ∨ (∃ snap, i = .set snap) ∨
    i = .rst := by
  cases i
  case puReverbTime => exact .inl ⟨.sys .reverbTime, _, _, _, rfl⟩
  case puReverbPreDelay => exact .inl ⟨.sys .reverbPreDelay, _, _, _, rfl⟩
  case puReverbHfDamping => exact .inl ⟨.sys .reverbHfDamping, _, _, _, rfl⟩
  case puReverbDensity => exact .inl ⟨.sys .reverbDensity, _, _, _, rfl⟩
  case puReverbLevel => exact .inl ⟨.sys .reverbLevel, _, _, _, rfl⟩
  case puChorusRate => exact .inl ⟨.sys .chorusRate, _, _, _, rfl⟩
  case puChorusDepth => exact .inl ⟨.sys .chorusDepth, _, _, _, rfl⟩
  case puChorusFeedback => exact .inl ⟨.sys .chorusFeedback, _, _, _, rfl⟩
  case puChorusCrossFeedback => exact .inl ⟨.sys .chorusCrossFeedback, _, _, _, rfl⟩
  case puChorusBaseDelay => exact .inl ⟨.sys .chorusBaseDelay, _, _, _, rfl⟩
  case puChorusOutput => exact .inl ⟨.sys .chorusOutput, _, _, _, rfl⟩
  case puChorusLevel => exact .inl ⟨.sys .chorusLevel, _, _, _, rfl⟩
  case puVariationType => exact .inl ⟨.sys .variationType, _, _, _, rfl⟩
  case puVariationParam1 => exact .inl ⟨.sys .variationParam1, _, _, _, rfl⟩
  case puVariationParam2 => exact .inl ⟨.sys .variationParam2, _, _, _, rfl⟩
  case puVariationParam3 => exact .inl ⟨.sys .variationParam3, _, _, _, rfl⟩
  case puVariationParam4 => exact .inl ⟨.sys .variationParam4, _, _, _, rfl⟩
  case puVariationLevel => exact .inl ⟨.sys .variationLevel, _, _, _, rfl⟩
  case puVariationBypass => exact .inl ⟨.sys .variationBypass, _, _, _, rfl⟩
  case puEqLowGain => exact .inl ⟨.sys .eqLowGain, _, _, _, rfl⟩
  case puEqMidGain => exact .inl ⟨.sys .eqMidGain, _, _, _, rfl⟩
  case puEqHighGain => exact .inl ⟨.sys .eqHighGain, _, _, _, rfl⟩
  case puEqMidFreq => exact .inl ⟨.sys .eqMidFreq, _, _, _, rfl⟩
  case puEqMidQ => exact .inl ⟨.sys .eqMidQ, _, _, _, rfl⟩
  case puRoutingEffectOrder => exact .inl ⟨.sys .routingEffectOrder, _, _, _, rfl⟩
  case puRoutingSendReverbToChorus => exact .inl ⟨.sys .routingSendReverbToChorus, _, _, _, rfl⟩
  case puRoutingSendReverbToVariation => exact .inl ⟨.sys .routingSendReverbToVariation, _, _, _, rfl⟩
  case puRoutingSendChorusToReverb => exact .inl ⟨.sys .routingSendChorusToReverb, _, _, _, rfl⟩
  case puRoutingSendChorusToVariation => exact .inl ⟨.sys .routingSendChorusToVariation, _, _, _, rfl⟩
  case puRoutingSendVariationToReverb => exact .inl ⟨.sys .routingSendVariationToReverb, _, _, _, rfl⟩
  case puRoutingSendVariationToChorus => exact .inl ⟨.sys .routingSendVariationToChorus, _, _, _, rfl⟩
  case puGlobalMasterLevel => exact .inl ⟨.sys .globalMasterLevel, _, _, _, rfl⟩
  case puGlobalBypass => exact .inl ⟨.sys .globalBypass, _, _, _, rfl⟩
  case puGlobalCurrentChannel => exact .inl ⟨.sys .globalCurrentChannel, _, _, _, rfl⟩
  case puChInsType => exact .inl ⟨.ch .insType, _, _, _, rfl⟩
  case puChInsParam1 => exact .inl ⟨.ch .insParam1, _, _, _, rfl⟩
  case puChInsParam2 => exact .inl ⟨.ch .insParam2, _, _, _, rfl⟩
  case puChInsParam3 => exact .inl ⟨.ch .insParam3, _, _, _, rfl⟩
  case puChInsParam4 => exact .inl ⟨.ch .insParam4, _, _, _, rfl⟩
  case puChInsLevel => exact .inl ⟨.ch .insLevel, _, _, _, rfl⟩
  case puChInsBypass => exact .inl ⟨.ch .insBypass, _, _, _, rfl⟩
  case puChReverbSend => exact .inl ⟨.ch .reverbSend, _, _, _, rfl⟩
  case puChChorusSend => exact .inl ⟨.ch .chorusSend, _, _, _, rfl⟩
  case puChVariationSend => exact .inl ⟨.ch .variationSend, _, _, _, rfl⟩
  case puChInsertionSend => exact .inl ⟨.ch .insertionSend, _, _, _, rfl⟩
  case puChPan => exact .inl ⟨.ch .pan, _, _, _, rfl⟩
  case puChVolume => exact .inl ⟨.ch .volume, _, _, _, rfl⟩
  case puChMute => exact .inl ⟨.ch .mute, _, _, _, rfl⟩
  case puChSolo => exact .inl ⟨.ch .solo, _, _, _, rfl⟩
  all_goals simp

/-- A row of the table is the write of its field, with result OK, in a block with any parameters. -/
@[simp] theorem execFor_paramInstr (cfg : Config K) (f : ParamField) (ch vH vL : Byte) (s : State K) :
    execFor cfg (paramInstr f ch vH vL) s = .next (answer .ok (paramWrite f ch vH vL s)) := by
  cases f with
  | sys f => cases f <;> rfl
  | ch f => cases f <;> rfl

/-- An SX in any spelling is the instruction of its layout, in a block with any parameters. -/
theorem execFor_sx (cfg : Config K) (vendor body : List Byte) (s : State K) :
    execFor cfg (.sx vendor body) s = execFor cfg (sxInstrFor cfg vendor body) s := by
  rcases sxInstrFor_cases cfg vendor body with
    ⟨_, _, _, _, _, rfl, rfl, e⟩ | ⟨_, _, hp, rfl, rfl, e⟩ | ⟨_, _, hp, rfl, rfl, e⟩ | ⟨_, e⟩ <;> rw [e]
  · simp [execFor, execSxFor, execSxParamChange, sysEx]
  · simp [execFor, execSxFor, execSxBulkSystem, sysEx, show ¬ (0#8 = cfg.pcSubstatus) from fun h => hp h.symm]
  · simp [execFor, execSxFor, execSxBulkChannel, sysEx, show ¬ (0#8 = cfg.pcSubstatus) from fun h => hp h.symm]

/-- Parameters that meet their constraints build a block, in the reset state; no others do (70_reset_and_hazards R403). -/
theorem construct_eq_some {cfg : (Config K)} {s : (State K)} :
    construct cfg = some s ↔ cfg.valid = true ∧ s = State.resetWith cfg := by
  unfold construct
  by_cases h : cfg.valid = true
  · rw [if_pos h, Option.some.injEq]
    exact ⟨fun e => ⟨h, e.symm⟩, fun e => e.2.symm⟩
  · rw [if_neg h]
    exact ⟨(nomatch ·), fun e => absurd e.1 h⟩

end Sys2Proof.Machine
end

