-- ==== Sys2Proof/Laws/Exact.lean ====
section
/-! SUPPORT. The reference block over the reals (00_scope R9): its angles, functions and π, that it can be built, and that the
helpers of the machine's exact rationals, read as reals, are the reference's helpers. -/

namespace Sys2Proof

/-! ## Angles and functions -/

@[simp] theorem Numerics.real_pi (z : ℝ → ℝ) : (Numerics.real z).pi = Real.pi := rfl
@[simp] theorem Numerics.real_sin (z : ℝ → ℝ) (a : Angle ℝ) : (Numerics.real z).sin a = Real.sin a.val := rfl
@[simp] theorem Numerics.real_cos (z : ℝ → ℝ) (a : Angle ℝ) : (Numerics.real z).cos a = Real.cos a.val := rfl
@[simp] theorem Numerics.real_exp (z : ℝ → ℝ) (x : ℝ) : (Numerics.real z).exp x = Real.exp x := rfl
@[simp] theorem Numerics.real_sqrt (z : ℝ → ℝ) (x : ℝ) : (Numerics.real z).sqrt x = Real.sqrt x := rfl
@[simp] theorem Numerics.real_pow (z : ℝ → ℝ) (x y : ℝ) : (Numerics.real z).pow x y = x ^ y := rfl
@[simp] theorem Numerics.real_pow10 (z : ℝ → ℝ) (x : ℝ) : (Numerics.real z).pow10 x = 10 ^ x := rfl

@[simp] theorem Config.reference_num (z : ℝ → ℝ) (ext : ExtProcs ℝ) :
    (Config.reference z ext).num = Numerics.real z := rfl

end Sys2Proof

namespace Sys2Proof.Machine

/-! ## The reference block -/

/-- The reference computes exactly. -/
theorem isExact_real (z : ℝ → ℝ) : (Numerics.real z).IsExact := isExact_exact Real.pi_pos _

/-- The reference parameters build a block. -/
theorem valid_reference (z : ℝ → ℝ) (ext : ExtProcs ℝ) : (Config.reference z ext).valid = true :=
  valid_r7 (isExact_real z) _

theorem construct_reference (z : ℝ → ℝ) (ext : ExtProcs ℝ) :
    construct (Config.reference z ext) = some (referenceReset z ext) :=
  construct_eq_some.2 ⟨valid_reference z ext, rfl⟩

/-! ## The rationals of the machine, read as reals -/

theorem cast_clampScalar (x lo hi : Scalar) : ((clampScalar x lo hi : Scalar) : ℝ) = clampScalar (x : ℝ) lo hi := by
  simp [clampScalar]

theorem floor_cast (z : ℝ → ℝ) (x : Scalar) : (Numerics.real z).floor x = Config.numerics.floor x := by
  simp [Numerics.real, Config.numerics, Numerics.exact]

theorem roundHalfUp_cast (z : ℝ → ℝ) (x : Scalar) : roundHalfUp (Numerics.real z) x = roundHalfUp Config.numerics x := by
  rw [roundHalfUp, roundHalfUp, ← floor_cast z]
  push_cast
  rfl

theorem cast_modScalar (z : ℝ → ℝ) (a m : Scalar) :
    ((modScalar Config.numerics a m : Scalar) : ℝ) = modScalar (Numerics.real z) a m := by
  simp only [modScalar, ← floor_cast z]
  push_cast
  rfl

theorem cast_absScalar (x : Scalar) : ((absScalar x : Scalar) : ℝ) = |(x : ℝ)| := by
  rw [absScalar, Rat.cast_max, Rat.cast_neg]
  rfl

end Sys2Proof.Machine
end

