-- ==== Sys2Proof/Laws/Mixing.lean ====
section
/-! SUPPORT. PROC: its two ends, the active set, and what each part of a frame leaves alone. -/

namespace Sys2Proof.Machine

set_option linter.unusedSectionVars false

variable {K : Type} [Zero K] [One K] [Add K] [Sub K] [Mul K] [Div K] [Neg K] [NatCast K] [IntCast K] [Max K] [Min K]
  [LT K] [DecidableLT K] [DecidableEq K]

/-- The contract: 16 frames, and 0 or 16 levels (41_mixing R221). -/
theorem checkContract_eq_none {nF nLv : Nat} :
    checkContract nF nLv = none ↔ nF = 16 ∧ (nLv = 0 ∨ nLv = 16) := by
  unfold checkContract
  split
  · simp; omega
  · split <;> simp <;> omega

theorem any_toList_iff {α : Type} {n : Nat} (v : Vector α n) (p : α → Bool) :
    v.toList.any p = true ↔ ∃ c : Fin n, p v[c] = true := by
  simp only [List.any_eq_true, Vector.mem_toList_iff]
  constructor
  · rintro ⟨x, hx, h⟩
    obtain ⟨i, hi, rfl⟩ := Vector.mem_iff_getElem.1 hx
    exact ⟨⟨i, hi⟩, h⟩
  · rintro ⟨c, h⟩
    exact ⟨_, Vector.getElem_mem _, h⟩

theorem anyActive_iff (ch : Vector (Channel K) 16) : anyActive ch = true ↔ ∃ c : Fin 16, isActive ch ch[c] = true :=
  any_toList_iff ch (isActive ch)

theorem anySolo_iff (ch : Vector (Channel K) 16) : anySolo ch = true ↔ ∃ c : Fin 16, ch[c].solo = true :=
  any_toList_iff ch fun c => c.solo

@[simp] theorem effectStep_insertion (cfg : Config K) (p : Params K) (e : Effect) (x : Stereo K) (rt : Runtime K) :
    (effectStep cfg p e x rt).2.insertion = rt.insertion := by cases e <;> rfl

@[simp] theorem effectStep_eq (cfg : Config K) (p : Params K) (e : Effect) (x : Stereo K) (rt : Runtime K) :
    (effectStep cfg p e x rt).2.eq = rt.eq := by cases e <;> rfl

/-- The system stage does not touch the insertion slots (10_state R82). -/
@[simp] theorem route_insertion (cfg : Config K) (p : Params K) (bus : Stereo K) (rt : Runtime K) :
    (route cfg p bus rt).2.insertion = rt.insertion := by
  simp [route, routeEffects, routeStage]

/-- The insertion slots after a frame. -/
theorem processFrame_insertion (cfg : Config K) (p : Params K) (ch : Vector (Channel K) 16) (frames : List (Stereo K))
    (levels : List K) (rt : Runtime K) :
    (processFrame cfg p ch frames levels rt).rt.insertion =
      Vector.ofFn fun c => (channelInsertion cfg ch rt.insertion frames c).2 := by
  unfold processFrame systemStage
  simp only
  split
  · rw [route_insertion]
  · rfl

/-- The output of a channel after a frame. -/
theorem processFrame_out (cfg : Config K) (p : Params K) (ch : Vector (Channel K) 16) (frames : List (Stereo K))
    (levels : List K) (rt : Runtime K) (c : Fin 16) :
    (processFrame cfg p ch frames levels rt).out[c] =
      if isActive ch ch[c] then
        channelOut cfg p ch[c] (channelInsertion cfg ch rt.insertion frames c).1
          (systemStage cfg p ch (systemBus ch frames levels)
            { rt with insertion := Vector.ofFn fun c => (channelInsertion cfg ch rt.insertion frames c).2 }).1
      else silence := by
  simp only [processFrame, getElem_ofFn_fin]

section Exact
variable {F : Type} [Field F] [LinearOrder F] [IsStrictOrderedRing F] [FloorRing F]

/-- The sum in order is the sum, in exact arithmetic. -/
theorem sumInOrder_eq_sum (xs : List F) : sumInOrder xs = xs.sum :=
  List.sum_eq_foldl.symm

/-- The envelope moves towards the level by a fraction of the difference (46_dynamics R352). -/
theorem follow_cases (env e attack release : F) :
    (env < e ∧ follow env e attack release = env + attack * (e - env)) ∨
    (e ≤ env ∧ follow env e attack release = env + release * (e - env)) := by
  unfold follow
  by_cases h : env < e
  · exact .inl ⟨h, by simp [h]⟩
  · exact .inr ⟨not_lt.1 h, by simp [h]⟩

/-- A gate's three phases (46_dynamics R356). -/
theorem procGate_cases (cfg : Config F) (x : Stereo F) (p : GenericParams F) (st : GateState F) :
    (gateThreshold cfg p.p1 < levelOf x ∧ procGate cfg x p st = (x, ⟨1, gateHold cfg p.p2⟩)) ∨
    (levelOf x ≤ gateThreshold cfg p.p1 ∧ 0 < st.h ∧ procGate cfg x p st = (scaleFrame st.g x, ⟨st.g, st.h - 1⟩)) ∨
    (levelOf x ≤ gateThreshold cfg p.p1 ∧ st.h = 0 ∧ procGate cfg x p st =
      (scaleFrame (st.g * gateDecay cfg p.p3 * cfg.gateAtten) x, ⟨st.g * gateDecay cfg p.p3, st.h⟩)) := by
  unfold procGate
  split
  · rename_i h; exact .inl ⟨h, rfl⟩
  · rename_i h
    split
    · rename_i h0; exact .inr (.inl ⟨not_lt.1 h, h0, rfl⟩)
    · rename_i h0; exact .inr (.inr ⟨not_lt.1 h, by omega, rfl⟩)

end Exact

end Sys2Proof.Machine
end

