-- ==== Sys2Proof/Laws/PerInstr.lean ====
section
/-! SUPPORT. Facts about every instruction as syntax: its record begins with one of the seven opcodes. -/

namespace Sys2Proof.Laws

/-- The record of an instruction begins with an opcode byte in 0x01 to 0x07 (30_encoding R131). -/
def RecordOpcode.Statement (i : Instr) : Prop :=
  ∃ (op : Byte) (rest : List PortItem), encode i = .byte op :: rest ∧ 1 ≤ op.toNat ∧ op.toNat ≤ 7

theorem RecordOpcode.pu (ch aH aL vH vL : Byte) : RecordOpcode.Statement (.pu ch aH aL vH vL) :=
  ⟨_, _, rfl, by decide, by decide⟩

theorem RecordOpcode.sx (vendor body : List Byte) : RecordOpcode.Statement (.sx vendor body) :=
  ⟨_, _, rfl, by decide, by decide⟩

theorem RecordOpcode.sxParamChange (dev aH aL value : Byte) (tail : List Byte) : RecordOpcode.Statement (.sxParamChange dev aH aL value tail) :=
  ⟨_, _, rfl, by decide, by decide⟩

theorem RecordOpcode.sxBulkSystem (dev : Byte) (records : List Byte) : RecordOpcode.Statement (.sxBulkSystem dev records) :=
  ⟨_, _, rfl, by decide, by decide⟩

theorem RecordOpcode.sxBulkChannel (dev : Byte) (records : List Byte) : RecordOpcode.Statement (.sxBulkChannel dev records) :=
  ⟨_, _, rfl, by decide, by decide⟩

theorem RecordOpcode.encSys : RecordOpcode.Statement .encSys :=
  ⟨_, _, rfl, by decide, by decide⟩

theorem RecordOpcode.encChan : RecordOpcode.Statement .encChan :=
  ⟨_, _, rfl, by decide, by decide⟩

theorem RecordOpcode.proc (frames : List Stereo) (levels : List Scalar) : RecordOpcode.Statement (.proc frames levels) :=
  ⟨_, _, rfl, by decide, by decide⟩

theorem RecordOpcode.get : RecordOpcode.Statement .get :=
  ⟨_, _, rfl, by decide, by decide⟩

theorem RecordOpcode.set (snap : Snapshot) : RecordOpcode.Statement (.set snap) :=
  ⟨_, _, rfl, by decide, by decide⟩

theorem RecordOpcode.rst : RecordOpcode.Statement .rst :=
  ⟨_, _, rfl, by decide, by decide⟩

theorem RecordOpcode.puReverbTime (ch vH vL : Byte) : RecordOpcode.Statement (.puReverbTime ch vH vL) :=
  ⟨_, _, rfl, by decide, by decide⟩

theorem RecordOpcode.puReverbPreDelay (ch vH vL : Byte) : RecordOpcode.Statement (.puReverbPreDelay ch vH vL) :=
  ⟨_, _, rfl, by decide, by decide⟩

theorem RecordOpcode.puReverbHfDamping (ch vH vL : Byte) : RecordOpcode.Statement (.puReverbHfDamping ch vH vL) :=
  ⟨_, _, rfl, by decide, by decide⟩

theorem RecordOpcode.puReverbDensity (ch vH vL : Byte) : RecordOpcode.Statement (.puReverbDensity ch vH vL) :=
  ⟨_, _, rfl, by decide, by decide⟩

theorem RecordOpcode.puReverbLevel (ch vH vL : Byte) : RecordOpcode.Statement (.puReverbLevel ch vH vL) :=
  ⟨_, _, rfl, by decide, by decide⟩

theorem RecordOpcode.puChorusRate (ch vH vL : Byte) : RecordOpcode.Statement (.puChorusRate ch vH vL) :=
  ⟨_, _, rfl, by decide, by decide⟩

theorem RecordOpcode.puChorusDepth (ch vH vL : Byte) : RecordOpcode.Statement (.puChorusDepth ch vH vL) :=
  ⟨_, _, rfl, by decide, by decide⟩

theorem RecordOpcode.puChorusFeedback (ch vH vL : Byte) : RecordOpcode.Statement (.puChorusFeedback ch vH vL) :=
  ⟨_, _, rfl, by decide, by decide⟩

theorem RecordOpcode.puChorusCrossFeedback (ch vH vL : Byte) : RecordOpcode.Statement (.puChorusCrossFeedback ch vH vL) :=
  ⟨_, _, rfl, by decide, by decide⟩

theorem RecordOpcode.puChorusBaseDelay (ch vH vL : Byte) : RecordOpcode.Statement (.puChorusBaseDelay ch vH vL) :=
  ⟨_, _, rfl, by decide, by decide⟩

theorem RecordOpcode.puChorusOutput (ch vH vL : Byte) : RecordOpcode.Statement (.puChorusOutput ch vH vL) :=
  ⟨_, _, rfl, by decide, by decide⟩

theorem RecordOpcode.puChorusLevel (ch vH vL : Byte) : RecordOpcode.Statement (.puChorusLevel ch vH vL) :=
  ⟨_, _, rfl, by decide, by decide⟩

theorem RecordOpcode.puVariationType (ch vH vL : Byte) : RecordOpcode.Statement (.puVariationType ch vH vL) :=
  ⟨_, _, rfl, by decide, by decide⟩

theorem RecordOpcode.puVariationParam1 (ch vH vL : Byte) : RecordOpcode.Statement (.puVariationParam1 ch vH vL) :=
  ⟨_, _, rfl, by decide, by decide⟩

theorem RecordOpcode.puVariationParam2 (ch vH vL : Byte) : RecordOpcode.Statement (.puVariationParam2 ch vH vL) :=
  ⟨_, _, rfl, by decide, by decide⟩

theorem RecordOpcode.puVariationParam3 (ch vH vL : Byte) : RecordOpcode.Statement (.puVariationParam3 ch vH vL) :=
  ⟨_, _, rfl, by decide, by decide⟩

theorem RecordOpcode.puVariationParam4 (ch vH vL : Byte) : RecordOpcode.Statement (.puVariationParam4 ch vH vL) :=
  ⟨_, _, rfl, by decide, by decide⟩

theorem RecordOpcode.puVariationLevel (ch vH vL : Byte) : RecordOpcode.Statement (.puVariationLevel ch vH vL) :=
  ⟨_, _, rfl, by decide, by decide⟩

theorem RecordOpcode.puVariationBypass (ch vH vL : Byte) : RecordOpcode.Statement (.puVariationBypass ch vH vL) :=
  ⟨_, _, rfl, by decide, by decide⟩

theorem RecordOpcode.puEqLowGain (ch vH vL : Byte) : RecordOpcode.Statement (.puEqLowGain ch vH vL) :=
  ⟨_, _, rfl, by decide, by decide⟩

theorem RecordOpcode.puEqMidGain (ch vH vL : Byte) : RecordOpcode.Statement (.puEqMidGain ch vH vL) :=
  ⟨_, _, rfl, by decide, by decide⟩

theorem RecordOpcode.puEqHighGain (ch vH vL : Byte) : RecordOpcode.Statement (.puEqHighGain ch vH vL) :=
  ⟨_, _, rfl, by decide, by decide⟩

theorem RecordOpcode.puEqMidFreq (ch vH vL : Byte) : RecordOpcode.Statement (.puEqMidFreq ch vH vL) :=
  ⟨_, _, rfl, by decide, by decide⟩

theorem RecordOpcode.puEqMidQ (ch vH vL : Byte) : RecordOpcode.Statement (.puEqMidQ ch vH vL) :=
  ⟨_, _, rfl, by decide, by decide⟩

theorem RecordOpcode.puRoutingEffectOrder (ch vH vL : Byte) : RecordOpcode.Statement (.puRoutingEffectOrder ch vH vL) :=
  ⟨_, _, rfl, by decide, by decide⟩

theorem RecordOpcode.puRoutingSendReverbToChorus (ch vH vL : Byte) : RecordOpcode.Statement (.puRoutingSendReverbToChorus ch vH vL) :=
  ⟨_, _, rfl, by decide, by decide⟩

theorem RecordOpcode.puRoutingSendReverbToVariation (ch vH vL : Byte) : RecordOpcode.Statement (.puRoutingSendReverbToVariation ch vH vL) :=
  ⟨_, _, rfl, by decide, by decide⟩

theorem RecordOpcode.puRoutingSendChorusToReverb (ch vH vL : Byte) : RecordOpcode.Statement (.puRoutingSendChorusToReverb ch vH vL) :=
  ⟨_, _, rfl, by decide, by decide⟩

theorem RecordOpcode.puRoutingSendChorusToVariation (ch vH vL : Byte) : RecordOpcode.Statement (.puRoutingSendChorusToVariation ch vH vL) :=
  ⟨_, _, rfl, by decide, by decide⟩

theorem RecordOpcode.puRoutingSendVariationToReverb (ch vH vL : Byte) : RecordOpcode.Statement (.puRoutingSendVariationToReverb ch vH vL) :=
  ⟨_, _, rfl, by decide, by decide⟩

theorem RecordOpcode.puRoutingSendVariationToChorus (ch vH vL : Byte) : RecordOpcode.Statement (.puRoutingSendVariationToChorus ch vH vL) :=
  ⟨_, _, rfl, by decide, by decide⟩

theorem RecordOpcode.puGlobalMasterLevel (ch vH vL : Byte) : RecordOpcode.Statement (.puGlobalMasterLevel ch vH vL) :=
  ⟨_, _, rfl, by decide, by decide⟩

theorem RecordOpcode.puGlobalBypass (ch vH vL : Byte) : RecordOpcode.Statement (.puGlobalBypass ch vH vL) :=
  ⟨_, _, rfl, by decide, by decide⟩

theorem RecordOpcode.puGlobalCurrentChannel (ch vH vL : Byte) : RecordOpcode.Statement (.puGlobalCurrentChannel ch vH vL) :=
  ⟨_, _, rfl, by decide, by decide⟩

theorem RecordOpcode.puChInsType (ch vH vL : Byte) : RecordOpcode.Statement (.puChInsType ch vH vL) :=
  ⟨_, _, rfl, by decide, by decide⟩

theorem RecordOpcode.puChInsParam1 (ch vH vL : Byte) : RecordOpcode.Statement (.puChInsParam1 ch vH vL) :=
  ⟨_, _, rfl, by decide, by decide⟩

theorem RecordOpcode.puChInsParam2 (ch vH vL : Byte) : RecordOpcode.Statement (.puChInsParam2 ch vH vL) :=
  ⟨_, _, rfl, by decide, by decide⟩

theorem RecordOpcode.puChInsParam3 (ch vH vL : Byte) : RecordOpcode.Statement (.puChInsParam3 ch vH vL) :=
  ⟨_, _, rfl, by decide, by decide⟩

theorem RecordOpcode.puChInsParam4 (ch vH vL : Byte) : RecordOpcode.Statement (.puChInsParam4 ch vH vL) :=
  ⟨_, _, rfl, by decide, by decide⟩

theorem RecordOpcode.puChInsLevel (ch vH vL : Byte) : RecordOpcode.Statement (.puChInsLevel ch vH vL) :=
  ⟨_, _, rfl, by decide, by decide⟩

theorem RecordOpcode.puChInsBypass (ch vH vL : Byte) : RecordOpcode.Statement (.puChInsBypass ch vH vL) :=
  ⟨_, _, rfl, by decide, by decide⟩

theorem RecordOpcode.puChReverbSend (ch vH vL : Byte) : RecordOpcode.Statement (.puChReverbSend ch vH vL) :=
  ⟨_, _, rfl, by decide, by decide⟩

theorem RecordOpcode.puChChorusSend (ch vH vL : Byte) : RecordOpcode.Statement (.puChChorusSend ch vH vL) :=
  ⟨_, _, rfl, by decide, by decide⟩

theorem RecordOpcode.puChVariationSend (ch vH vL : Byte) : RecordOpcode.Statement (.puChVariationSend ch vH vL) :=
  ⟨_, _, rfl, by decide, by decide⟩

theorem RecordOpcode.puChInsertionSend (ch vH vL : Byte) : RecordOpcode.Statement (.puChInsertionSend ch vH vL) :=
  ⟨_, _, rfl, by decide, by decide⟩

theorem RecordOpcode.puChPan (ch vH vL : Byte) : RecordOpcode.Statement (.puChPan ch vH vL) :=
  ⟨_, _, rfl, by decide, by decide⟩

theorem RecordOpcode.puChVolume (ch vH vL : Byte) : RecordOpcode.Statement (.puChVolume ch vH vL) :=
  ⟨_, _, rfl, by decide, by decide⟩

theorem RecordOpcode.puChMute (ch vH vL : Byte) : RecordOpcode.Statement (.puChMute ch vH vL) :=
  ⟨_, _, rfl, by decide, by decide⟩

theorem RecordOpcode.puChSolo (ch vH vL : Byte) : RecordOpcode.Statement (.puChSolo ch vH vL) :=
  ⟨_, _, rfl, by decide, by decide⟩

end Sys2Proof.Laws
end

