-- ==== Sys2Proof/Laws/SysEx.lean ====
section
/-! SUPPORT. The bulk-dump records and their scanner (40_protocol R188 to R190), and what applying them leaves alone. -/

namespace Sys2Proof.Machine

set_option linter.unusedSectionVars false

variable {K : Type} [Zero K] [One K] [Add K] [Sub K] [Mul K] [Div K] [Neg K] [NatCast K] [IntCast K] [Max K] [Min K]
  [LT K] [DecidableLT K] [DecidableEq K]

/-- The bytes of the last record are passed over. -/
theorem scanRecords_skip (r n k) (bs : List Byte) : scanRecords r n k bs = scanRecords r n 0 (bs.drop k) := by
  induction k generalizing bs with
  | zero => rfl
  | succ k ih => cases bs with
    | nil => simp [scanRecords]
    | cons b t => simp [scanRecords, ih]

/-- The system records that are recognised (40_protocol R188). -/
theorem systemRecord_cons_eq_some (aH aL vH vL : Byte) (rest : List Byte) (w : FieldWrite) :
    systemRecord (aH :: aL :: vH :: vL :: rest) = some w ↔
      ∃ f : SysField, aH = 0 ∧ aL = sysAddress f ∧ vH.toNat ≤ 127 ∧ vL.toNat ≤ 127 ∧
        w = ⟨.sys f, 0, vH.toNat * 128 + vL.toNat⟩ := by
  simp only [systemRecord]
  constructor
  · intro h
    rcases hd : descriptor aH aL with _ | ⟨f | f⟩ <;> simp only [hd] at h
    · simp at h
    · obtain ⟨h0, h1⟩ := descriptor_eq_some.1 hd
      split at h <;> simp at h
      rename_i hb; simp [isDataByte] at hb
      exact ⟨f, h0, h1.symm, hb.1, hb.2, h.symm⟩
    · simp at h
  · rintro ⟨f, rfl, rfl, h1, h2, rfl⟩
    rw [show descriptor 0 (sysAddress f) = _ from descriptor_fieldAddress (.sys f)]
    simp [isDataByte, h1, h2, value14]

/-- The per-channel records that are recognised (40_protocol R189). -/
theorem channelRecord_cons_eq_some (c aH aL vH vL : Byte) (rest : List Byte) (w : FieldWrite) :
    channelRecord (c :: aH :: aL :: vH :: vL :: rest) = some w ↔
      ∃ f : ChField, c.toNat ≤ 15 ∧ aH = 0 ∧ aL = chAddress f ∧ vH.toNat ≤ 127 ∧ vL.toNat ≤ 127 ∧
        w = ⟨.ch f, c.toNat, vH.toNat * 128 + vL.toNat⟩ := by
  simp only [channelRecord]
  constructor
  · intro h
    rcases hd : descriptor aH aL with _ | ⟨f | f⟩ <;> simp only [hd] at h
    · simp at h
    · simp at h
    · obtain ⟨h0, h1⟩ := descriptor_eq_some.1 hd
      split at h <;> simp at h
      rename_i hb; simp [isDataByte] at hb
      exact ⟨f, hb.1.1, h0, h1.symm, hb.1.2, hb.2, h.symm⟩
  · rintro ⟨f, h0, rfl, rfl, h1, h2, rfl⟩
    rw [show descriptor 0 (chAddress f) = _ from descriptor_fieldAddress (.ch f)]
    simp [isDataByte, h0, h1, h2, value14]

theorem systemRecord_scope {bs w} (h : systemRecord bs = some w) : ∃ f, w.field = .sys f := by
  rcases bs with (_ | ⟨a, _ | ⟨b, _ | ⟨c, _ | ⟨d, t⟩⟩⟩⟩) <;> try (simp [systemRecord] at h; done)
  obtain ⟨f, _, _, _, _, rfl⟩ := (systemRecord_cons_eq_some _ _ _ _ _ _).1 h; exact ⟨f, rfl⟩
theorem channelRecord_scope {bs w} (h : channelRecord bs = some w) : ∃ f, w.field = .ch f := by
  rcases bs with (_ | ⟨a, _ | ⟨b, _ | ⟨c, _ | ⟨d, _ | ⟨e, t⟩⟩⟩⟩⟩) <;> try (simp [channelRecord] at h; done)
  obtain ⟨f, _, _, _, _, _, rfl⟩ := (channelRecord_cons_eq_some _ _ _ _ _ _ _).1 h; exact ⟨f, rfl⟩

/-- Every record of a scan was recognised somewhere. -/
theorem scanRecords_mem (r n k) (bs : List Byte) (w) (h : w ∈ scanRecords r n k bs) : ∃ b, r b = some w := by
  induction bs generalizing k with
  | nil => simp [scanRecords] at h
  | cons b t ih =>
    cases k with
    | succ k => simp only [scanRecords] at h; exact ih _ h
    | zero =>
      simp only [scanRecords] at h
      cases hr : r (b :: t) with
      | none => rw [hr] at h; exact ih _ h
      | some w' => rw [hr] at h; rcases List.mem_cons.1 h with rfl | h; exact ⟨_, hr⟩; exact ih _ h

/-- Applying records changes only registers, and only of the scopes written. -/
theorem applyWrites_frame (ws : List FieldWrite) (s : State K) : (applyWrites ws s).rt = s.rt ∧ (applyWrites ws s).port = s.port ∧
   ((∀ w ∈ ws, ∃ f, w.field = .sys f) → (applyWrites ws s).ch = s.ch) ∧ ((∀ w ∈ ws, ∃ f, w.field = .ch f) → (applyWrites ws s).p = s.p) := by
  induction ws generalizing s with
  | nil => simp [applyWrites]
  | cons w t ih =>
    have := ih (applyWrite s w)
    simp only [applyWrites, List.foldl_cons] at this ⊢
    rcases writeField_cases w.field w.bank (decodeValue (fieldTransform w.field) w.value) s with ⟨g, hg, h⟩ | ⟨g, d, hg, _, h⟩ | h <;>
      (have hw : applyWrite s w = _ := h) <;> rw [hw] at this ⊢ <;> refine ⟨this.1, this.2.1, fun hh => ?_, fun hh => ?_⟩
    · exact this.2.2.1 fun w hw => hh w (by simp [hw])
    · obtain ⟨f, hf⟩ := hh w (by simp); rw [hg] at hf; cases hf
    · obtain ⟨f, hf⟩ := hh w (by simp); rw [hg] at hf; cases hf
    · exact this.2.2.2 fun w hw => hh w (by simp [hw])
    · exact this.2.2.1 fun w hw => hh w (by simp [hw])
    · exact this.2.2.2 fun w hw => hh w (by simp [hw])

/-- An SX in any spelling is the instruction of its layout. -/
theorem exec_sx (vendor body : List Byte) (s : State) : exec (.sx vendor body) s = exec (sxInstr vendor body) s := by
  rcases sxInstr_cases vendor body with ⟨_, _, _, _, _, rfl, rfl, e⟩ | ⟨_, _, rfl, rfl, e⟩ | ⟨_, _, rfl, rfl, e⟩ |
    ⟨_, e⟩ <;> rw [e]
  · simp [exec, execSx, execSxFor, execSxParamChange, sysEx, vendorId_machine, pcSubstatus_machine]
  · simp [exec, execSx, execSxFor, execSxBulkSystem, sysEx, vendorId_machine, pcSubstatus_machine]
  · simp [exec, execSx, execSxFor, execSxBulkChannel, sysEx, vendorId_machine, pcSubstatus_machine]

end Sys2Proof.Machine
end

