-- ==== Sys2Proof/Laws/Transforms.lean ====
section
/-! SUPPORT. Rounding and clamping in the encode transforms (30_encoding R142). -/

namespace Sys2Proof.Machine

set_option linter.unusedSectionVars false

variable {K : Type} [Field K] [LinearOrder K] [IsStrictOrderedRing K] [FloorRing K]

theorem clampInt_of_mem {n lo hi : Int} (h1 : lo ≤ n) (h2 : n ≤ hi) : clampInt n lo hi = n := by
  simp [clampInt, h1, h2]

theorem clampInt_mem {n lo hi : Int} (h : lo ≤ hi) : lo ≤ clampInt n lo hi ∧ clampInt n lo hi ≤ hi := by
  unfold clampInt; omega

theorem clampScalar_of_mem {x lo hi : K} (h1 : lo ≤ x) (h2 : x ≤ hi) : clampScalar x lo hi = x := by
  simp [clampScalar, h1, h2]

theorem roundHalfUp_natCast {n : Numerics K} (hn : n.IsExact) (v : Nat) : roundHalfUp n (v : K) = v := by
  unfold roundHalfUp
  rw [hn.floor_eq, Int.floor_eq_iff]
  push_cast
  constructor <;> linarith

/-- Rounding moves a value by at most one half. -/
theorem abs_roundHalfUp_sub_le {n : Numerics K} (hn : n.IsExact) (x : K) : |(roundHalfUp n x : K) - x| ≤ 1 / 2 := by
  unfold roundHalfUp
  rw [hn.floor_eq]
  have h1 := Int.floor_le (x + 1 / 2)
  have h2 := Int.lt_floor_add_one (x + 1 / 2)
  rw [abs_le]
  constructor <;> linarith

/-- Rounding stays in the 14-bit range. -/
theorem roundHalfUp_mem {n : Numerics K} (hn : n.IsExact) {x : K} (h0 : 0 ≤ x) (h1 : x ≤ 16383) :
    0 ≤ roundHalfUp n x ∧ roundHalfUp n x ≤ 16383 := by
  unfold roundHalfUp
  rw [hn.floor_eq]
  constructor
  · apply Int.floor_nonneg.2
    linarith
  · rw [← Int.lt_add_one_iff, Int.floor_lt]
    push_cast
    linarith

theorem clamped_roundHalfUp {n : Numerics K} (hn : n.IsExact) {x : K} (h0 : 0 ≤ x) (h1 : x ≤ 16383) :
    ((clampInt (roundHalfUp n x) 0 16383).toNat : K) = roundHalfUp n x := by
  obtain ⟨a, b⟩ := roundHalfUp_mem hn h0 h1
  rw [clampInt_of_mem a b]
  have : (((roundHalfUp n x).toNat : Int) : K) = roundHalfUp n x := by rw [Int.toNat_of_nonneg a]
  exact_mod_cast this

/-- Every encoded real is a 14-bit value. -/
theorem clampInt_toNat_le (n : Int) : (clampInt n 0 16383).toNat ≤ 16383 := by
  unfold clampInt; omega

end Sys2Proof.Machine
end

