-- ==== Sys2Proof/Machine/Assembler.lean ====
section
/-! DEFINITION. The command syntax and the pseudo-commands (30_encoding R152, R153): how a command is written, and which
instruction a pseudo-command stands for. No step reads them. -/

namespace Sys2Proof.Machine

/-! ## Pseudo-commands (30_encoding R153) -/

/-- The pseudo-commands of 30_encoding R153. -/
inductive Pseudo where
  | write (f : ParamField) (x : Value) (ch : Option Byte)
  | mute (c : Byte)
  | unmute (c : Byte)
  | solo (c : Byte)
  | unsolo (c : Byte)
  | bypassOn
  | bypassOff
  | cursor (c : Byte)
  | sxpc (aH aL val : Byte)
  | silence
deriving DecidableEq, Repr

/-- The expansion of a pseudo-command (30_encoding R153). An omitted channel is the byte 0xFF (R152). -/
def expandPseudo : Pseudo → Instr
  | .write f x ch =>
    let v := encodeValue Config.numerics (fieldTransform f) x
    puInstr (ch.getD 0xFF) 0x00 (fieldAddress f) (highByte v) (lowByte v)
  | .mute c => puInstr c 0x00 0x4D 0x7F 0x7F
  | .unmute c => puInstr c 0x00 0x4D 0x00 0x00
  | .solo c => puInstr c 0x00 0x4E 0x7F 0x7F
  | .unsolo c => puInstr c 0x00 0x4E 0x00 0x00
  | .bypassOn => puInstr 0xFF 0x00 0x39 0x7F 0x7F
  | .bypassOff => puInstr 0xFF 0x00 0x39 0x00 0x00
  | .cursor c => puInstr 0xFF 0x00 0x3A c 0x00
  | .sxpc aH aL val => sxInstr [0x43] [0x7F, 0x10, aH, aL, val]
  | .silence => .proc (List.replicate 16 ⟨0, 0⟩) []

/-! ## Command lines (30_encoding R152)

A line is read as lexemes: the marks `, | ( ) / [ ]` stand alone, blanks separate, `;` starts a comment. -/

def isMark (c : Char) : Bool := [',', '|', '(', ')', '/', '[', ']'].contains c

/-- Close the lexeme being read, if there is one. -/
def closeLexeme (cur : List Char) : List String := if cur.isEmpty then [] else [String.ofList cur.reverse]

/-- The lexemes of a line; `cur` is the lexeme being read, its last character first. -/
def lexemes (cur : List Char) : List Char → List String
  | [] => closeLexeme cur
  | c :: rest =>
    if c = ';' then closeLexeme cur
    else if c = ' ' ∨ c = '\t' then closeLexeme cur ++ lexemes [] rest
    else if isMark c then closeLexeme cur ++ String.ofList [c] :: lexemes [] rest
    else lexemes (c :: cur) rest

/-- The value of a digit in a base up to 16. -/
def digitValue (base : Nat) (c : Char) : Option Nat :=
  let d :=
    if '0' ≤ c ∧ c ≤ '9' then some (c.toNat - 48)
    else if 'a' ≤ c ∧ c ≤ 'f' then some (c.toNat - 87)
    else if 'A' ≤ c ∧ c ≤ 'F' then some (c.toNat - 55)
    else none
  d.filter (· < base)

/-- Digits after those already read. -/
def digitsFrom (base acc : Nat) : List Char → Option Nat
  | [] => some acc
  | c :: rest => (digitValue base c).bind fun d => digitsFrom base (acc * base + d) rest

/-- A natural number, at least one digit. -/
def parseDigits (base : Nat) (cs : List Char) : Option Nat := if cs.isEmpty then none else digitsFrom base 0 cs

/-- A number: hex `0x..` or decimal. -/
def parseNat (s : String) : Option Nat :=
  match s.toList with
  | '0' :: 'x' :: rest => parseDigits 16 rest
  | cs => parseDigits 10 cs

/-- A byte operand. -/
def parseByte (s : String) : Option Byte := ((parseNat s).filter (· < 256)).map (BitVec.ofNat 8)

/-- An unsigned decimal real: digits, or digits `.` digits. -/
def parseUnsignedReal (cs : List Char) : Option Scalar :=
  match cs.span (· != '.') with
  | (whole, []) => (parseDigits 10 whole).map fun n => (n : Scalar)
  | (whole, _ :: fraction) =>
    (parseDigits 10 whole).bind fun n =>
    (parseDigits 10 fraction).map fun d => (n : Scalar) + d / 10 ^ fraction.length

/-- A decimal real. -/
def parseReal (s : String) : Option Scalar :=
  match s.toList with
  | '-' :: cs => (parseUnsignedReal cs).map fun x => -x
  | cs => parseUnsignedReal cs

/-- Operands separated by commas. -/
def parseCommaBytes : List String → Option (List Byte)
  | [] => none
  | [s] => (parseByte s).map fun b => [b]
  | s :: "," :: rest => (parseByte s).bind fun b => (parseCommaBytes rest).map fun bs => b :: bs
  | _ :: _ :: _ => none

/-- The frames of PROC, and the lexemes after the last of them. -/
def parseFrames : List String → Option (List Stereo × List String)
  | "(" :: l :: "," :: r :: ")" :: rest =>
    (parseReal l).bind fun x => (parseReal r).bind fun y =>
      (parseFrames rest).map fun fr => (⟨x, y⟩ :: fr.1, fr.2)
  | rest => some ([], rest)

/-- The names of the rows, as 30_encoding R141 writes them. -/
def fieldName : ParamField → String
  | .sys .reverbTime => "reverb.time"
  | .sys .reverbPreDelay => "reverb.pre_delay"
  | .sys .reverbHfDamping => "reverb.hf_damping"
  | .sys .reverbDensity => "reverb.density"
  | .sys .reverbLevel => "reverb.level"
  | .sys .chorusRate => "chorus.rate"
  | .sys .chorusDepth => "chorus.depth"
  | .sys .chorusFeedback => "chorus.feedback"
  | .sys .chorusCrossFeedback => "chorus.cross_feedback"
  | .sys .chorusBaseDelay => "chorus.base_delay"
  | .sys .chorusOutput => "chorus.output"
  | .sys .chorusLevel => "chorus.level"
  | .sys .variationType => "variation.type"
  | .sys .variationParam1 => "variation.param1"
  | .sys .variationParam2 => "variation.param2"
  | .sys .variationParam3 => "variation.param3"
  | .sys .variationParam4 => "variation.param4"
  | .sys .variationLevel => "variation.level"
  | .sys .variationBypass => "variation.bypass"
  | .sys .eqLowGain => "eq.low_gain"
  | .sys .eqMidGain => "eq.mid_gain"
  | .sys .eqHighGain => "eq.high_gain"
  | .sys .eqMidFreq => "eq.mid_freq"
  | .sys .eqMidQ => "eq.mid_q"
  | .sys .routingEffectOrder => "routing.effect_order"
  | .sys .routingSendReverbToChorus => "routing.send_reverb_to_chorus"
  | .sys .routingSendReverbToVariation => "routing.send_reverb_to_variation"
  | .sys .routingSendChorusToReverb => "routing.send_chorus_to_reverb"
  | .sys .routingSendChorusToVariation => "routing.send_chorus_to_variation"
  | .sys .routingSendVariationToReverb => "routing.send_variation_to_reverb"
  | .sys .routingSendVariationToChorus => "routing.send_variation_to_chorus"
  | .sys .globalMasterLevel => "global.master_level"
  | .sys .globalBypass => "global.bypass"
  | .sys .globalCurrentChannel => "global.current_channel"
  | .ch .insType => "ch.ins_type"
  | .ch .insParam1 => "ch.ins_param1"
  | .ch .insParam2 => "ch.ins_param2"
  | .ch .insParam3 => "ch.ins_param3"
  | .ch .insParam4 => "ch.ins_param4"
  | .ch .insLevel => "ch.ins_level"
  | .ch .insBypass => "ch.ins_bypass"
  | .ch .reverbSend => "ch.reverb_send"
  | .ch .chorusSend => "ch.chorus_send"
  | .ch .variationSend => "ch.variation_send"
  | .ch .insertionSend => "ch.insertion_send"
  | .ch .pan => "ch.pan"
  | .ch .volume => "ch.volume"
  | .ch .mute => "ch.mute"
  | .ch .solo => "ch.solo"

/-- The row of a name. -/
def fieldOfName (s : String) : Option ParamField := allFields.find? fun f => fieldName f == s

/-- The operand x of `WRITE f, x` (30_encoding R153): a decimal real for a LIN or PAN field, a natural number for an IDX field.
The spec gives no written form of a flag: for a BOOL field x is a natural number, 0 for false and any other for true, and the
words `true` and `false` are not read. DESIGN CHOICE, notes/assumptions/18.md. -/
def parseValue (f : ParamField) (s : String) : Option Value :=
  match (fieldTransform f : Transform) with
  | .lin _ _ => (parseReal s).map .real
  | .pan => (parseReal s).map .real
  | .idx _ => (parseNat s).map fun n => .index n
  | .bool => (parseNat s).map fun n => .flag (n != 0)

/-- PU, with its channel written or omitted. -/
def assemblePu : List Byte → Option Instr
  | [aH, aL, vH, vL] => some (puInstr 0xFF aH aL vH vL)
  | [aH, aL, vH, vL, ch] => some (puInstr ch aH aL vH vL)
  | _ => none

/-- SX: the vendor bytes in brackets, a bar, the body bytes. -/
def assembleSx (ls : List String) : Option Instr :=
  match ls.span (· != "]") with
  | (vendor, _ :: "|" :: body) =>
    (vendor.mapM parseByte).bind fun v => (body.mapM parseByte).map fun b => sxInstr v b
  | _ => none

/-- PROC: the frames, and after a slash the level multipliers. -/
def assembleProc (ls : List String) : Option Instr :=
  (parseFrames ls).bind fun fr =>
    match fr.2 with
    | [] => some (.proc fr.1 [])
    | "/" :: levels => (levels.mapM parseReal).map fun gs => .proc fr.1 gs
    | _ => none

/-- WRITE f, x [, ch]. -/
def assembleWrite : List String → Option Instr
  | [f, ",", x] => (fieldOfName f).bind fun g => (parseValue g x).map fun v => expandPseudo (.write g v none)
  | [f, ",", x, ",", c] =>
    (fieldOfName f).bind fun g => (parseValue g x).bind fun v => (parseByte c).map fun b =>
      expandPseudo (.write g v (some b))
  | _ => none

/-- A pseudo-command with one channel operand. -/
def assembleChannel (p : Byte → Pseudo) : List String → Option Instr
  | [c] => (parseByte c).map fun b => expandPseudo (p b)
  | _ => none

/-- The instruction of a line's lexemes. SET's snapshot has no written form in the spec, so a SET line is not read
(notes/assumptions/18.md). -/
def assembleLexemes : List String → Option Instr
  | "PU" :: rest => (parseCommaBytes rest).bind assemblePu
  | "SX" :: "[" :: rest => assembleSx rest
  | ["ENC", "sys"] => some .encSys
  | ["ENC", "chan"] => some .encChan
  | "PROC" :: rest => assembleProc rest
  | ["GET"] => some .get
  | ["RST"] => some .rst
  | "WRITE" :: rest => assembleWrite rest
  | "MUTE" :: rest => assembleChannel .mute rest
  | "UNMUTE" :: rest => assembleChannel .unmute rest
  | "SOLO" :: rest => assembleChannel .solo rest
  | "UNSOLO" :: rest => assembleChannel .unsolo rest
  | ["BYPASS", "on"] => some (expandPseudo .bypassOn)
  | ["BYPASS", "off"] => some (expandPseudo .bypassOff)
  | "CURSOR" :: rest => assembleChannel .cursor rest
  | "SXPC" :: rest =>
    (parseCommaBytes rest).bind fun bs =>
      match bs with
      | [aH, aL, v] => some (expandPseudo (.sxpc aH aL v))
      | _ => none
  | ["SILENCE"] => some (expandPseudo .silence)
  | _ => none

/-- The instruction a command line writes (30_encoding R152). -/
def assembleLine (line : String) : Option Instr := assembleLexemes (lexemes [] line.toList)

end Sys2Proof.Machine
end

