-- ==== Sys2Proof/Tests/Slice0.lean ====
section
/-! SUPPORT. Tests: ill-formed terms refused, words written out from the spec's encodings decoded, one step of each
instruction on the spec's own examples, and a witness of the hypotheses of each statement. -/

namespace Sys2Proof.Tests

-- One theorem after the other: kernel evaluations that wait for each other would each hold a thread.
set_option Elab.async false

open Sys2Proof Sys2Proof.Machine

/-- The reset values of the machine. -/
abbrev resetParams : Params := Machine.resetParams

/-- A bank of the machine after reset. -/
abbrev resetChannel : Channel := Machine.resetChannel

/-- A silent frame of the machine. -/
abbrev silence : Stereo := Machine.silence

/-! ## WellFormed refuses -/

/-- A general PU at a table address is the row's instruction. -/
theorem test_wf_pu_at_row_address : (Instr.pu 0xFF 0x00 0x4B 0x40 0x00).wellFormed = false := by decide

theorem test_wf_sx_vendor_too_long : (Instr.sx (List.replicate 256 0x43) []).wellFormed = false := by
  simp only [Instr.wellFormed, Instr.wellFormedFor, List.length_replicate, Nat.lt_irrefl, decide_false, Bool.false_and]

theorem test_wf_sx_body_too_long : (Instr.sx [] (List.replicate 65536 0x00)).wellFormed = false := by
  simp only [Instr.wellFormed, Instr.wellFormedFor, List.length_replicate, Nat.lt_irrefl, decide_false, Bool.false_and, Bool.and_false]

/-- A body with a row of its own. -/
theorem test_wf_sx_named_layout :
    (Instr.sx [0x43] [0x7F, 0x10, 0x00, 0x04, 0x40]).wellFormed = false ∧
    (Instr.sx [0x43] [0x7F, 0x00, 0x03]).wellFormed = false ∧
    (Instr.sx [0x43] [0x7F, 0x00, 0x04, 0x00]).wellFormed = false := by decide

theorem test_wf_sx_rows_too_long :
    (Instr.sxParamChange 0x7F 0x00 0x04 0x40 (List.replicate 65531 0x00)).wellFormed = false ∧
    (Instr.sxBulkSystem 0x7F (List.replicate 65533 0x00)).wellFormed = false ∧
    (Instr.sxBulkChannel 0x7F (List.replicate 65533 0x00)).wellFormed = false := by
  simp only [Instr.wellFormed, Instr.wellFormedFor, List.length_replicate, Nat.reduceAdd, Nat.lt_irrefl, decide_false,
    Bool.and_false, and_self]

theorem test_wf_proc_too_long :
    (Instr.proc (List.replicate 256 ⟨0, 0⟩) []).wellFormed = false ∧
    (Instr.proc [] (List.replicate 256 0)).wellFormed = false := by
  simp only [Instr.wellFormed, Instr.wellFormedFor, List.length_replicate, Nat.lt_irrefl, decide_false, Bool.false_and, Bool.and_false,
    and_self]

/-! ## Decoding words written out from 30_encoding -/

/-- 30_encoding R132, R141. -/
theorem test_decode_reverb_rows :
  decode (byteItems [0x01, 0xFF, 0x00, 0x00, 0x12, 0x30]) = .instr (.puReverbTime 0xFF 0x12 0x30) [] ∧
  decode (byteItems [0x01, 0xFF, 0x00, 0x01, 0x12, 0x31]) = .instr (.puReverbPreDelay 0xFF 0x12 0x31) [] ∧
  decode (byteItems [0x01, 0xFF, 0x00, 0x02, 0x12, 0x32]) = .instr (.puReverbHfDamping 0xFF 0x12 0x32) [] ∧
  decode (byteItems [0x01, 0xFF, 0x00, 0x03, 0x12, 0x33]) = .instr (.puReverbDensity 0xFF 0x12 0x33) [] ∧
  decode (byteItems [0x01, 0xFF, 0x00, 0x04, 0x12, 0x34]) = .instr (.puReverbLevel 0xFF 0x12 0x34) [] := by decide

/-- 30_encoding R132, R141. -/
theorem test_decode_chorus_rows :
  decode (byteItems [0x01, 0xFF, 0x00, 0x08, 0x12, 0x30]) = .instr (.puChorusRate 0xFF 0x12 0x30) [] ∧
  decode (byteItems [0x01, 0xFF, 0x00, 0x09, 0x12, 0x31]) = .instr (.puChorusDepth 0xFF 0x12 0x31) [] ∧
  decode (byteItems [0x01, 0xFF, 0x00, 0x0A, 0x12, 0x32]) = .instr (.puChorusFeedback 0xFF 0x12 0x32) [] ∧
  decode (byteItems [0x01, 0xFF, 0x00, 0x0B, 0x12, 0x33]) = .instr (.puChorusCrossFeedback 0xFF 0x12 0x33) [] ∧
  decode (byteItems [0x01, 0xFF, 0x00, 0x0C, 0x12, 0x34]) = .instr (.puChorusBaseDelay 0xFF 0x12 0x34) [] ∧
  decode (byteItems [0x01, 0xFF, 0x00, 0x0D, 0x12, 0x35]) = .instr (.puChorusOutput 0xFF 0x12 0x35) [] ∧
  decode (byteItems [0x01, 0xFF, 0x00, 0x0E, 0x12, 0x36]) = .instr (.puChorusLevel 0xFF 0x12 0x36) [] := by decide

/-- 30_encoding R132, R141. -/
theorem test_decode_variation_rows :
  decode (byteItems [0x01, 0xFF, 0x00, 0x10, 0x12, 0x30]) = .instr (.puVariationType 0xFF 0x12 0x30) [] ∧
  decode (byteItems [0x01, 0xFF, 0x00, 0x11, 0x12, 0x31]) = .instr (.puVariationParam1 0xFF 0x12 0x31) [] ∧
  decode (byteItems [0x01, 0xFF, 0x00, 0x12, 0x12, 0x32]) = .instr (.puVariationParam2 0xFF 0x12 0x32) [] ∧
  decode (byteItems [0x01, 0xFF, 0x00, 0x13, 0x12, 0x33]) = .instr (.puVariationParam3 0xFF 0x12 0x33) [] ∧
  decode (byteItems [0x01, 0xFF, 0x00, 0x14, 0x12, 0x34]) = .instr (.puVariationParam4 0xFF 0x12 0x34) [] ∧
  decode (byteItems [0x01, 0xFF, 0x00, 0x15, 0x12, 0x35]) = .instr (.puVariationLevel 0xFF 0x12 0x35) [] ∧
  decode (byteItems [0x01, 0xFF, 0x00, 0x16, 0x12, 0x36]) = .instr (.puVariationBypass 0xFF 0x12 0x36) [] := by decide

/-- 30_encoding R132, R141. -/
theorem test_decode_eq_rows :
  decode (byteItems [0x01, 0xFF, 0x00, 0x20, 0x12, 0x30]) = .instr (.puEqLowGain 0xFF 0x12 0x30) [] ∧
  decode (byteItems [0x01, 0xFF, 0x00, 0x21, 0x12, 0x31]) = .instr (.puEqMidGain 0xFF 0x12 0x31) [] ∧
  decode (byteItems [0x01, 0xFF, 0x00, 0x22, 0x12, 0x32]) = .instr (.puEqHighGain 0xFF 0x12 0x32) [] ∧
  decode (byteItems [0x01, 0xFF, 0x00, 0x23, 0x12, 0x33]) = .instr (.puEqMidFreq 0xFF 0x12 0x33) [] ∧
  decode (byteItems [0x01, 0xFF, 0x00, 0x24, 0x12, 0x34]) = .instr (.puEqMidQ 0xFF 0x12 0x34) [] := by decide

/-- 30_encoding R132, R141. -/
theorem test_decode_routing_rows :
  decode (byteItems [0x01, 0xFF, 0x00, 0x30, 0x12, 0x30]) = .instr (.puRoutingEffectOrder 0xFF 0x12 0x30) [] ∧
  decode (byteItems [0x01, 0xFF, 0x00, 0x31, 0x12, 0x31]) = .instr (.puRoutingSendReverbToChorus 0xFF 0x12 0x31) [] ∧
  decode (byteItems [0x01, 0xFF, 0x00, 0x32, 0x12, 0x32]) = .instr (.puRoutingSendReverbToVariation 0xFF 0x12 0x32) [] ∧
  decode (byteItems [0x01, 0xFF, 0x00, 0x33, 0x12, 0x33]) = .instr (.puRoutingSendChorusToReverb 0xFF 0x12 0x33) [] ∧
  decode (byteItems [0x01, 0xFF, 0x00, 0x34, 0x12, 0x34]) = .instr (.puRoutingSendChorusToVariation 0xFF 0x12 0x34) [] ∧
  decode (byteItems [0x01, 0xFF, 0x00, 0x35, 0x12, 0x35]) = .instr (.puRoutingSendVariationToReverb 0xFF 0x12 0x35) [] ∧
  decode (byteItems [0x01, 0xFF, 0x00, 0x36, 0x12, 0x36]) = .instr (.puRoutingSendVariationToChorus 0xFF 0x12 0x36) [] := by decide

/-- 30_encoding R132, R141. -/
theorem test_decode_global_rows :
  decode (byteItems [0x01, 0xFF, 0x00, 0x38, 0x12, 0x30]) = .instr (.puGlobalMasterLevel 0xFF 0x12 0x30) [] ∧
  decode (byteItems [0x01, 0xFF, 0x00, 0x39, 0x12, 0x31]) = .instr (.puGlobalBypass 0xFF 0x12 0x31) [] ∧
  decode (byteItems [0x01, 0xFF, 0x00, 0x3A, 0x12, 0x32]) = .instr (.puGlobalCurrentChannel 0xFF 0x12 0x32) [] := by decide

/-- 30_encoding R132, R141. -/
theorem test_decode_insertion_rows :
  decode (byteItems [0x01, 0x00, 0x00, 0x40, 0x12, 0x30]) = .instr (.puChInsType 0x00 0x12 0x30) [] ∧
  decode (byteItems [0x01, 0x01, 0x00, 0x41, 0x12, 0x31]) = .instr (.puChInsParam1 0x01 0x12 0x31) [] ∧
  decode (byteItems [0x01, 0x02, 0x00, 0x42, 0x12, 0x32]) = .instr (.puChInsParam2 0x02 0x12 0x32) [] ∧
  decode (byteItems [0x01, 0x03, 0x00, 0x43, 0x12, 0x33]) = .instr (.puChInsParam3 0x03 0x12 0x33) [] ∧
  decode (byteItems [0x01, 0x04, 0x00, 0x44, 0x12, 0x34]) = .instr (.puChInsParam4 0x04 0x12 0x34) [] ∧
  decode (byteItems [0x01, 0x05, 0x00, 0x45, 0x12, 0x35]) = .instr (.puChInsLevel 0x05 0x12 0x35) [] ∧
  decode (byteItems [0x01, 0x06, 0x00, 0x46, 0x12, 0x36]) = .instr (.puChInsBypass 0x06 0x12 0x36) [] := by decide

/-- 30_encoding R132, R141. -/
theorem test_decode_channel_rows :
  decode (byteItems [0x01, 0x00, 0x00, 0x47, 0x12, 0x30]) = .instr (.puChReverbSend 0x00 0x12 0x30) [] ∧
  decode (byteItems [0x01, 0x01, 0x00, 0x48, 0x12, 0x31]) = .instr (.puChChorusSend 0x01 0x12 0x31) [] ∧
  decode (byteItems [0x01, 0x02, 0x00, 0x49, 0x12, 0x32]) = .instr (.puChVariationSend 0x02 0x12 0x32) [] ∧
  decode (byteItems [0x01, 0x03, 0x00, 0x4A, 0x12, 0x33]) = .instr (.puChInsertionSend 0x03 0x12 0x33) [] ∧
  decode (byteItems [0x01, 0x04, 0x00, 0x4B, 0x12, 0x34]) = .instr (.puChPan 0x04 0x12 0x34) [] ∧
  decode (byteItems [0x01, 0x05, 0x00, 0x4C, 0x12, 0x35]) = .instr (.puChVolume 0x05 0x12 0x35) [] ∧
  decode (byteItems [0x01, 0x06, 0x00, 0x4D, 0x12, 0x36]) = .instr (.puChMute 0x06 0x12 0x36) [] ∧
  decode (byteItems [0x01, 0x07, 0x00, 0x4E, 0x12, 0x37]) = .instr (.puChSolo 0x07 0x12 0x37) [] := by decide

/-- 30_encoding R132: an address that names nothing. -/
theorem test_decode_pu_no_row :
    decode (byteItems [0x01, 0x05, 0x00, 0x05, 0x01, 0x02]) = .instr (.pu 0x05 0x00 0x05 0x01 0x02) [] ∧
    decode (byteItems [0x01, 0x05, 0x01, 0x00, 0x01, 0x02]) = .instr (.pu 0x05 0x01 0x00 0x01 0x02) [] := by decide

/-- 30_encoding R133, R144 to R146, R148; the example of 40_protocol R186. -/
theorem test_decode_sx_rows :
    decode (byteItems [0x02, 0x01, 0x00, 0x05, 0x43, 0x7F, 0x10, 0x00, 0x4D, 0x01]) =
      .instr (.sxParamChange 0x7F 0x00 0x4D 0x01 []) [] ∧
    decode (byteItems [0x02, 0x01, 0x00, 0x07, 0x43, 0x7F, 0x00, 0x03, 0x00, 0x04, 0x7F, 0x7F]) =
      .instr (.sxBulkSystem 0x7F [0x00, 0x04, 0x7F, 0x7F]) [] ∧
    decode (byteItems [0x02, 0x01, 0x00, 0x04, 0x43, 0x7F, 0x00, 0x04, 0x02]) = .instr (.sxBulkChannel 0x7F [0x02]) [] ∧
    decode (byteItems [0x02, 0x02, 0x00, 0x03, 0x43, 0x00, 0x7F, 0x10, 0x00]) =
      .instr (.sx [0x43, 0x00] [0x7F, 0x10, 0x00]) [] ∧
    decode (byteItems [0x02, 0x00, 0x00, 0x00, 0x05]) = .instr (.sx [] []) [.byte 0x05] := by decide

/-- 30_encoding R134 to R136. -/
theorem test_decode_other_commands :
    decode (byteItems [0x03, 0x00]) = .instr .encSys [] ∧ decode (byteItems [0x03, 0x01]) = .instr .encChan [] ∧
    decode (byteItems [0x05, 0x07]) = .instr .get [.byte 0x07] ∧ decode (byteItems [0x07]) = .instr .rst [] ∧
    decode [.byte 0x06, .snapshot zeroSnapshot] = .instr (.set zeroSnapshot) [] ∧
    decode (byteItems [0x04, 0x02, 0x01] ++ [.real 1, .real 2, .real 3, .real 4, .real 5]) =
      .instr (.proc [⟨1, 2⟩, ⟨3, 4⟩] [5]) [] := by decide

/-- 30_encoding R131, R134, R138: reserved opcodes take one byte, reserved scopes two. -/
theorem test_decode_reserved :
    decode (byteItems [0x00, 0x05]) = .refused [.byte 0x05] ∧ decode (byteItems [0x08, 0x05]) = .refused [.byte 0x05] ∧
    decode (byteItems [0xFF]) = .refused [] ∧ decode (byteItems [0x03, 0x02, 0x05]) = .refused [.byte 0x05] := by decide

theorem test_decode_unfinished_and_wrong :
    decode [] = .incomplete ∧ decode (byteItems [0x01, 0xFF, 0x00]) = .incomplete ∧
    decode [.real 0] = .wrongItem ∧ decode [.byte 0x04, .byte 0x01, .byte 0x00, .byte 0x05] = .wrongItem := by decide

/-- spec/opcode_table.json: the opcodes, the two ENC scopes and a PARAM_ADDR key. -/
theorem test_table_words :
    decodeTableWord 16 0x0300 = some .encSys ∧ decodeTableWord 16 0x0301 = some .encChan ∧
    decodeTableWord 8 0x05 = some .get ∧ decodeTableWord 8 0x06 = some (.set zeroSnapshot) ∧
    decodeTableWord 8 0x07 = some .rst ∧ decodeTableWord 16 0x4E = some (.puChSolo 0x00 0x00 0x00) ∧
    decodeTableWord 8 0x08 = none := by decide

/-! ## Assembler (30_encoding R152, R153) -/

theorem test_assemble_pu :
    assembleLine "PU 0x00, 0x00, 0x7F, 0x7F ; sets reverb.time" = some (.puReverbTime 0xFF 0x7F 0x7F) := by decide +kernel

theorem test_assemble_sx :
    assembleLine "SX [0x43] | 0x7F 0x10 0x00 0x4D 0x01" = some (.sxParamChange 0x7F 0x00 0x4D 0x01 []) := by
  decide +kernel

/-- `global.bypass` is a BOOL field: 30_encoding R142 encodes true as 16383 and false as 0. How a flag is written is the model's
(notes/assumptions/18.md). -/
theorem test_assemble_write_flag :
    assembleLine "WRITE global.bypass, 1" = some (.puGlobalBypass 0xFF 0x7F 0x7F) ∧
    assembleLine "WRITE global.bypass, 0" = some (.puGlobalBypass 0xFF 0x00 0x00) := by decide +kernel

theorem test_assemble_write_other_flags :
    assembleLine "WRITE global.bypass, 0x02" = some (.puGlobalBypass 0xFF 0x7F 0x7F) ∧
    assembleLine "WRITE global.bypass, true" = none := by decide +kernel

theorem test_assemble_pseudo : assembleLine "SOLO 3" = some (.puChSolo 0x03 0x7F 0x7F) := by decide +kernel

/-! ## One step of each instruction

`after i s f` is a field f of the state `exec` gives. Expected values are those of the examples the rules give. -/

def after {α : Type} (i : Instr) (s : State) (f : State → α) : Option α :=
  match exec i s with
  | .next t => some (f t)
  | .fault _ => none
  | .refused _ => none

/-- 10_state R21, V-DOC-1: the two ends of `reverb.time`. -/
theorem test_pu_reverb_time :
    after (.puReverbTime 0xFF 0x00 0x00) State.reset (fun t => t.p.reverb.time) = some (1 / 10) ∧
    after (.puReverbTime 0x00 0x7F 0x7F) State.reset (fun t => (t.p.reverb.time, t.result)) =
      some (83 / 10, some .ok) := by decide +kernel

/-- V-DOC-1: `reverb.pre_delay` at 12.7 ms; `eq.low_gain` at −12 dB. -/
theorem test_pu_lin_ends :
    after (.puReverbPreDelay 0xFF 0x7F 0x7F) State.reset (fun t => t.p.reverb.preDelay) = some (127 / 10000) ∧
    after (.puEqLowGain 0xFF 0x00 0x00) State.reset (fun t => t.p.eq.lowGain) = some (-12) ∧
    after (.puChorusBaseDelay 0xFF 0x7F 0x7F) State.reset (fun t => t.p.chorus.baseDelay) = some (3 / 100) := by
  decide +kernel

/-- 30_encoding R140: an index uses vH only and is clamped to its maximum; a flag is v ≠ 0. -/
theorem test_pu_index_and_flag :
    after (.puRoutingEffectOrder 0xFF 0x03 0x7F) State.reset (fun t => t.p.routing.effectOrder) = some 3 ∧
    after (.puRoutingEffectOrder 0xFF 0x7F 0x00) State.reset (fun t => t.p.routing.effectOrder) = some 5 ∧
    after (.puGlobalBypass 0xFF 0x00 0x01) State.reset (fun t => t.p.global.bypass) = some true ∧
    after (.puVariationBypass 0xFF 0x00 0x00) State.reset (fun t => t.p.variation.bypass) = some false := by
  decide +kernel

/-- V-DOC-1: `CH[3].pan`; only bank 3 changes. -/
theorem test_pu_channel_pan :
    after (.puChPan 0x03 0x7F 0x7F) State.reset (fun t => (t.ch[3].pan, t.ch[2].pan, t.ch[0].pan)) =
      some (1, 1 / 2, 1 / 2) := by decide +kernel

/-- 40_protocol R181: the cursor is used where the channel is absent. -/
theorem test_pu_cursor :
    after (.puChMute 0xFF 0x01 0x00) { State.reset with p.global.currentChannel := 9 }
      (fun t => (t.ch[9].mute, t.ch[0].mute)) = some (true, false) := by decide +kernel

/-- 40_protocol R182: value bytes above 127 and channel bytes 0x10 to 0xFE are dropped. -/
theorem test_pu_dropped :
    after (.puReverbLevel 0x00 0x80 0x00) State.reset (fun t => t.p.reverb.level) = some (1 / 2) ∧
    after (.puChVolume 0x10 0x00 0x00) State.reset (fun t => (t.ch[0].volume, t.result)) = some (1, some .ok) := by
  decide +kernel

theorem test_pu_unknown_address :
    after (.pu 0xFF 0x00 0x05 0x7F 0x7F) State.reset (fun t => (t.p == resetParams, t.result)) =
      some (true, some .ok) := by decide +kernel

/-- The example of 40_protocol R186: v = 128 sets the mute of the cursor's channel. -/
theorem test_sx_param_change :
    after (.sxParamChange 0x7F 0x00 0x4D 0x01 []) State.reset (fun t => t.ch[0].mute) = some true ∧
    after (.sx [0x43] [0x7F, 0x10, 0x00, 0x4D, 0x01]) State.reset (fun t => t.ch[0].mute) = some true := by decide +kernel

/-- 40_protocol R188, R190: a record, one stray byte, and a record behind it; a tail is ignored. -/
theorem test_sx_bulk_system :
    after (.sxBulkSystem 0x7F [0x00, 0x04, 0x7F, 0x7F, 0x55, 0x00, 0x38, 0x00, 0x00, 0x00, 0x05]) State.reset
      (fun t => (t.p.reverb.level, t.p.global.masterLevel)) = some (1, 0) := by decide +kernel

/-- 40_protocol R189: channel 0x10 is not recognised, channel 2 is. -/
theorem test_sx_bulk_channel :
    after (.sxBulkChannel 0x7F [0x10, 0x00, 0x47, 0x00, 0x00, 0x02, 0x00, 0x47, 0x7F, 0x7F]) State.reset
      (fun t => (t.ch[0].reverbSend, t.ch[2].reverbSend)) = some (1 / 4, 1) := by decide +kernel

/-- 30_encoding R148: a vendor string of two bytes. -/
theorem test_sx_ignored :
    after (.sx [0x43, 0x43] [0x7F, 0x10, 0x00, 0x4D, 0x01]) State.reset (fun t => (t.ch[0].mute, t.result)) =
      some (false, some .ok) := by decide +kernel

/-- 40_protocol R191: the record of `global.master_level` after reset is 00 38 66 32, and the dump begins 43 7F 00 03. -/
theorem test_enc_system :
    systemDumpRecord Config.machine.num resetParams .globalMasterLevel = [0x00, 0x38, 0x66, 0x32] ∧
    (systemDump Config.machine resetParams).take 4 = [0x43, 0x7F, 0x00, 0x03] ∧
    (systemDump Config.machine resetParams).length = 140 := by decide +kernel

/-- 30_encoding R147: 16 · 15 records of 5 bytes behind 4 bytes. -/
theorem test_enc_channel :
    after .encChan State.reset (fun t => t.result.map fun r => match r with
      | .bytes out => (out.length, out.take 6)
      | _ => (0, [])) = some (some (1204, [0x43, 0x7F, 0x00, 0x04, 0x00, 0x00])) := by decide +kernel

theorem test_get : after .get State.reset (fun t => t.result) = some (some (.snapshot resetSnapshot)) := by decide +kernel

/-- The example of 40_protocol R196: a pan of 1.7 is stored as 1.0. -/
theorem test_set_clamps :
    after (.set { resetSnapshot with ch := resetSnapshot.ch.set 0 { resetChannel with pan := 17 / 10 } }) State.reset
      (fun t => (t.ch[0].pan, t.ch[1].pan)) = some (1, 1 / 2) := by decide +kernel

theorem test_rst :
    after .rst { State.reset with p.reverb.level := 1, rt.rv.pd.w := 5 } (fun t => (t.p.reverb.level, t.rt.rv.pd.w)) =
      some (1 / 2, 0) := by decide +kernel

/-- 41_mixing R221: 15 frames, and 16 frames with 3 levels. -/
theorem test_proc_contract :
    after (.proc (List.replicate 15 silence) [1, 1, 1]) State.reset (fun t => t.result) =
      some (some (.error .frameCount)) ∧
    after (.proc (List.replicate 16 silence) [1, 1, 1]) State.reset (fun t => t.result) =
      some (some (.error .levelCount)) := by decide +kernel

/-! ### PROC under stand-ins for the NUMERICS functions -/

/-- Stand-ins that a kernel can evaluate; no expected value below depends on them. -/
def testFunctions : Functions where
  sin := fun a => a.val
  cos := fun a => 1 - a.val * a.val
  exp := fun x => 1 / (1 - x)
  sqrt := fun x => (1 + x) / 2
  pow := fun _ _ => 1
  pow10 := fun x => 1 + x * x
  divByZero := fun _ => 0

def testCfg : Config := Config.r7 (Numerics.exact 1 testFunctions) ExtProcs.identity

/-- The block after RST and SOLO 0. -/
def soloState : State :=
  { State.resetWith testCfg with ch := (Vector.replicate 16 resetChannel).set 0 { resetChannel with solo := true } }

/-- V-EX-1, frame 0: channel 0 gives (0.4, 0.4), every other channel is silent. -/
theorem test_proc_example :
    (processFrame testCfg soloState.p soloState.ch (⟨1, 0⟩ :: List.replicate 15 ⟨0, 0⟩) [] soloState.rt).out =
      (Vector.replicate 16 silence).set 0 ⟨2 / 5, 2 / 5⟩ := by decide +kernel

/-- 41_mixing R224: the share of a channel, (1 − 0) · 1 · 0.25 · (1 + 0). -/
theorem test_bus_share : systemBus soloState.ch (List.replicate 16 ⟨1, 0⟩) [] = 1 / 4 := by decide +kernel

/-- The example of 45_chorus_moddelay R330: from reset, (1, 0) gives (0.25, 0). -/
theorem test_chorus_first_frame :
    (fxChorus testCfg resetParams.chorus soloState.rt.chorus ⟨1, 0⟩).1 = ⟨1 / 4, 0⟩ := by decide +kernel

/-- The example of 43_registry R277: type 0 at level 1 is the identity. -/
theorem test_variation_thru :
    (fxVariation testCfg { resetParams.variation with bypass := false } soloState.rt.variation ⟨1 / 2, 1 / 4⟩).1 =
      ⟨1 / 2, 1 / 4⟩ := by decide +kernel

/-- The example of 45_chorus_moddelay R332: frame 0 gives (0.5, 0.5). -/
theorem test_flanger_first_frame :
    (procFlanger testCfg ⟨1, 1⟩ ⟨1 / 2, 1 / 2, 1 / 2, 1 / 2⟩ soloState.rt.variation.flanger).1 = ⟨1 / 2, 1 / 2⟩ := by
  decide +kernel

/-- 46_dynamics R356: H = 11025 at p2 = 0.5. -/
theorem test_gate_hold : gateHold testCfg (1 / 2) = 11025 := by decide +kernel

/-- 44_reverb R291, R292, R294: N at the four steps of density, L_0 and L_3 at time 2.5, Dp at 12.7 ms. -/
theorem test_reverb_quantities :
    combCount testCfg { resetParams.reverb with density := 1 } = 8 ∧
    combCount testCfg { resetParams.reverb with density := 1 / 4 } = 5 ∧
    combLength testCfg resetParams.reverb 0 = 551 ∧ combLength testCfg resetParams.reverb 3 = 2205 ∧
    predelayLength testCfg { resetParams.reverb with preDelay := 127 / 10000 } = 560 := by decide +kernel

/-- 44_reverb R299 by hand: g = 1/2, d = 0, t = 1 gives y = −1/2 and stores 3/4. -/
theorem test_allpass :
    allpassStep testCfg 0 ⟨[], 0⟩ 1 = (-1 / 2, ⟨[(0, 3 / 4)], 1⟩) := by decide +kernel

/-- 42_routing_eq R240, R243, R244 by hand: a send of 1/4 from a variation of type 0 at level 1 gives it 3/4 of the input and
the next effect 1/4 of its output. -/
theorem test_route_stage :
    (routeStage testCfg { resetParams with variation := { resetParams.variation with bypass := false } } .variation (1 / 4)
      ⟨⟨1, 1⟩, ⟨1, 0⟩, soloState.rt⟩).inp = ⟨3 / 16, 3 / 16⟩ ∧
    (routeStage testCfg { resetParams with variation := { resetParams.variation with bypass := false } } .variation (1 / 4)
      ⟨⟨1, 1⟩, ⟨1, 0⟩, soloState.rt⟩).out = ⟨7 / 4, 3 / 4⟩ := by decide +kernel

/-- 42_routing_eq R257: after RST, EQ((0.25, −0.5)) = (0.25, −0.5). -/
theorem test_equalizer_identity :
    (equalize testCfg resetParams.eq soloState.rt.eq ⟨1 / 4, -1 / 2⟩).1 = ⟨1 / 4, -1 / 2⟩ := by decide +kernel

/-- 20_memory R103: halfway between two neighbours. -/
theorem test_frac_read : fracRead testCfg.num 8 [(1, 2), (2, 4)] 4 (5 / 2 : Scalar) = 3 := by decide +kernel

/-! ### The binary64 block -/

/-- A datum from its 64 bits. -/
def bits64 (w : BitVec 64) : Binary64 := ⟨w.msb, w.extractLsb' 52 11, w.extractLsb' 0 52⟩

/-- The numbers of the format nearest to 1/10 and −1/3, ties to even at 2^53, and the two ends of the range: 2^−1074 and
2^1024 − 2^970. -/
theorem test_binary64_round :
    Binary64.round false (1 / 10) = bits64 0x3FB999999999999A ∧ Binary64.round false (-1 / 3) = bits64 0xBFD5555555555555 ∧
    Binary64.ofInt (2 ^ 53 + 1) = .ofInt (2 ^ 53) ∧ Binary64.ofInt (2 ^ 53 + 3) = .ofInt (2 ^ 53 + 4) ∧
    Binary64.round false (mkRat 1 (2 ^ 1074)) = bits64 1 ∧
    Binary64.round true (mkRat (-1) (2 ^ 1075)) = bits64 0x8000000000000000 ∧
    Binary64.ofInt (2 ^ 1024 - 2 ^ 970 - 1) = bits64 0x7FEFFFFFFFFFFFFF ∧
    Binary64.ofInt (2 ^ 1024 - 2 ^ 970) = .infinityOf false := by
  decide +kernel

/-- Zeros, infinities and NaNs: 1 − 1 = +0, −0 + −0 = −0, ∞ − ∞ and 0 · ∞ are NaN, 1/−0 = −∞, no NaN is below a number. -/
theorem test_binary64_special :
    Binary64.sub (.ofInt 1) (.ofInt 1) = .zeroOf false ∧ Binary64.add (.zeroOf true) (.zeroOf true) = .zeroOf true ∧
    (Binary64.infinityOf false).sub (.infinityOf false) = .nan ∧ (Binary64.zeroOf false).mul (.infinityOf true) = .nan ∧
    Binary64.div (.ofInt 1) (.zeroOf true) = .infinityOf true ∧ Binary64.nan.below (.ofInt 1) = false ∧
    Binary64.below (.zeroOf true) (.zeroOf false) = false ∧ Binary64.below (.infinityOf true) (.ofInt (-1)) = true := by
  decide +kernel

/-- The numbers of the format nearest to sin, cos and sqrt at the arguments that a block asks for after reset: w0 of the three
bands (200, 1000 and 5000 Hz), the phases 0 and π/2, and 2. -/
def testFunctions64 : Functions Binary64 where
  sin a :=
    if a.val = bits64 0x3F9D2DD69613F104 then bits64 0x3F9D2CD3CF4B782A
    else if a.val = bits64 0x3FC23CA61DCC76A2 then bits64 0x3FC22CDEABEC443D
    else if a.val = bits64 0x3FE6CBCFA53F944B then bits64 0x3FE4EA96A42CC218
    else if a.val = .zeroOf false then .zeroOf false else .ofInt 1
  cos a :=
    if a.val = bits64 0x3F9D2DD69613F104 then bits64 0x3FEFFCACA3EC5536
    else if a.val = bits64 0x3FC23CA61DCC76A2 then bits64 0x3FEFACFE8CDED93F
    else if a.val = bits64 0x3FE6CBCFA53F944B then bits64 0x3FE837C727A17037
    else if a.val = .zeroOf false then .ofInt 1 else .zeroOf false
  exp _ := .ofInt 1
  sqrt x := if x = .ofInt 2 then bits64 0x3FF6A09E667F3BCD else x
  pow _ _ := .ofInt 1
  pow10 _ := .ofInt 1
  divByZero x := x

def cfg64 : Config Binary64 := Config.binary64 testFunctions64 (fun _ => 0) .identity

/-- The block after RST. -/
def state64 : State Binary64 := Binary64.arithmetic (State.resetWith cfg64)

/-- One sample of each side through the equalizer. -/
def equalize64 (u : Stereo Binary64) (st : EqState Binary64) : Stereo Binary64 × EqState Binary64 :=
  Binary64.arithmetic (equalize cfg64 state64.p.eq st u)

/-- V-EQ-1: (0.25, −0.5) and (1, 1) come back, and then (0, 0) leaves the residues −2.8e−17 and −1.7e−16, which are −2^−55 and
−1.5 · 2^−53. -/
theorem test_binary64_equalizer :
    let a := equalize64 ⟨bits64 0x3FD0000000000000, bits64 0xBFE0000000000000⟩ state64.rt.eq
    let b := equalize64 ⟨.ofInt 1, .ofInt 1⟩ a.2
    a.1 = ⟨bits64 0x3FD0000000000000, bits64 0xBFE0000000000000⟩ ∧ b.1 = ⟨.ofInt 1, .ofInt 1⟩ ∧
    (equalize64 ⟨.ofInt 0, .ofInt 0⟩ b.2).1 =
      ⟨.round false (-1 / 2 ^ 55), .round false (-3 / 2 ^ 54)⟩ := by decide +kernel

/-- A frame (l, 0.0)@0 of a block whose first channel is soloed and whose chorus comes first. -/
def processed64 (l : Binary64) : Vector (Stereo Binary64) 16 :=
  (Binary64.arithmetic (processFrame cfg64 { state64.p with routing.effectOrder := 2 }
    (state64.ch.set 0 { state64.ch[0] with solo := true })
    (⟨l, .ofInt 0⟩ :: List.replicate 15 ⟨.ofInt 0, .ofInt 0⟩) [] state64.rt)).out

/-- V-RTE-5: 0.41250000000000003 on both lanes, whose bits are 3FDA666666666667; and a sample of +∞ goes through unchecked
(60_exceptions R394). -/
theorem test_binary64_proc :
    (processed64 (.ofInt 1))[0] = ⟨bits64 0x3FDA666666666667, bits64 0x3FDA666666666667⟩ ∧
    (processed64 (.infinityOf false))[0] = ⟨.infinityOf false, .infinityOf false⟩ ∧
    (processed64 (.infinityOf false))[1] = ⟨.ofInt 0, .ofInt 0⟩ := by decide +kernel

/-- V-LFO-2: after one chorus frame phL ≈ 1.42475857306e−4 and phR ≈ 1.57093880265; a phase just below 2π wraps at the next
step of π/2 to just below π/2. -/
theorem test_binary64_phase :
    Binary64.arithmetic (advancePhase cfg64 (.ofInt 1) ⟨.ofInt 0⟩) = ⟨bits64 0x3F22ACB24B91E1EE⟩ ∧
    Binary64.arithmetic (advancePhase cfg64 (.ofInt 1) cfg64.chorusRPhase0) = ⟨bits64 0x3FF92290B9D689A7⟩ ∧
    Binary64.arithmetic (advancePhase cfg64 (.ofInt 11025) ⟨bits64 0x401921FB54442D17⟩) = ⟨bits64 0x3FF921FB54442D14⟩ :=
  by decide +kernel

/-- 00_scope R7: a COMB_CAP of 100 builds no binary64 block. -/
theorem test_binary64_parameters : (binary64Construct { cfg64 with combCap := 100 }).isNone = true := by decide +kernel

/-! ## Witnesses: the hypotheses of each statement can be met -/

/-- A legal state that is not the reset state: another cursor, another master level and another chorus phase. -/
def legalState : State where
  p := { resetParams with global := ⟨1 / 3, true, 15⟩ }
  ch := Vector.replicate 16 { resetChannel with pan := 1 }
  rt := { resetRuntime Config.machine with chorus := ⟨[], [], 2047, ⟨0⟩, ⟨1⟩⟩ }
  port := byteItems [0x05]
  result := none

theorem phaseLegal_pi : phaseLegal Config.machine.num ⟨1⟩ :=
  ⟨by norm_num, by norm_num [Config.machine, Config.r7, Config.numerics, Numerics.exact]⟩

theorem legalState_legal : StateLegal Config.machine legalState where
  params := by intro f; cases f <;> first | exact trivial | exact ⟨by decide +kernel, by decide +kernel⟩
  banks := by
    intro c
    simp only [legalState, Fin.getElem_fin, Vector.getElem_replicate]
    intro f
    cases f <;> first | exact trivial | exact ⟨by decide +kernel, by decide +kernel⟩
  runtime := by
    have hc := capacities_machine
    have hs : SlotLegal Config.machine (resetSlot Config.machine) := ⟨rfl, hc.flanger, (phaseLegal_zero phaseLegal_pi)⟩
    rw [runtimeLegal_iff]
    refine ⟨⟨⟨rfl, hc.pd⟩, fun k => ?_, fun j => ?_⟩, ⟨rfl, rfl, by decide, (phaseLegal_zero phaseLegal_pi), phaseLegal_pi⟩, hs,
      fun c => ?_⟩
    · simp only [legalState, resetRuntime, Fin.getElem_fin, Vector.getElem_replicate]
      exact ⟨rfl, hc.comb⟩
    · simp only [legalState, resetRuntime, Fin.getElem_fin, Vector.getElem_replicate]
      exact ⟨rfl, hc.ap j⟩
    · simp only [legalState, resetRuntime, Fin.getElem_fin, Vector.getElem_replicate]
      exact hs

/-- The reference parameters with the external processors of 43_registry R276. -/
noncomputable def refCfg : Config ℝ := Config.reference (fun _ => 0) ExtProcs.identity

/-- The stand-ins compute exactly. -/
theorem testCfg_isExact : testCfg.num.IsExact := isExact_exact one_pos _

/-- Another block: another vendor and sub-status, 48000 frames a second, per-side panning. -/
def otherCfg : Config :=
  { testCfg with vendorId := 0x41, pcSubstatus := 0x12, fs := 48000, panMode := .perSide, chorusRPhase0 := ⟨3 / 2⟩ }

/-- 00_scope R7: its constraints hold of the other block, and not where COMB_CAP is 100 or EQ_HIGH_FREQ reaches fs/2. -/
theorem test_parameters_checked :
    otherCfg.valid = true ∧ ({ otherCfg with combCap := 100 } : Config).valid = false ∧
    ({ otherCfg with eqHighFreq := 24000 } : Config).valid = false := by decide +kernel

/-- 00_scope R7, R9: over the reals CHORUS_R_PHASE0 may be 1 radian, and the block with it is built. -/
theorem test_phase_of_one_radian :
    construct { refCfg with chorusRPhase0 := ⟨1⟩ } =
      some (State.resetWith { refCfg with chorusRPhase0 := ⟨1⟩ }) ∧
    (State.resetWith { refCfg with chorusRPhase0 := ⟨1⟩ }).rt.chorus.phR.val = 1 := by
  obtain ⟨ha, h1, h2, h3, h4, -⟩ := (valid_iff _).1 (valid_reference (fun _ => 0) ExtProcs.identity)
  have hpi := Real.pi_gt_three
  have hp : phaseLegal refCfg.num ⟨1⟩ := ⟨zero_le_one, show 1 < 2 * Real.pi by linarith⟩
  exact ⟨construct_eq_some.2 ⟨(valid_iff _).2 ⟨ha, h1, h2, h3, h4, hp⟩, rfl⟩, rfl⟩

/-- The example of 40_protocol R186 under other parameters: the machine's own vendor byte is then a stranger's. -/
theorem test_decode_other_parameters :
    decodeFor otherCfg (byteItems [0x02, 0x01, 0x00, 0x05, 0x41, 0x7F, 0x12, 0x00, 0x4D, 0x01]) =
      .instr (.sxParamChange 0x7F 0x00 0x4D 0x01 []) [] ∧
    decodeFor otherCfg (byteItems [0x02, 0x01, 0x00, 0x03, 0x43, 0x7F, 0x00, 0x03]) =
      .instr (.sx [0x43] [0x7F, 0x00, 0x03]) [] := by decide

theorem witness_DecodeInvertsEncode : (Instr.sx [0x43] [0x7F, 0x00, 0x03]).wellFormedFor otherCfg = true ∧
    (Instr.sxBulkSystem 0x7F []).wellFormedFor otherCfg = true ∧ (Instr.sx [0x43] [0x7F]).wellFormed = true ∧
    (Instr.proc (List.replicate 255 ⟨0, 0⟩) (List.replicate 255 1)).wellFormed = true ∧
    (Instr.pu 0xFF 0x01 0x00 0x7F 0x7F).wellFormed = true := by
  refine ⟨by decide, by decide, by decide, ?_, by decide⟩
  simp only [Instr.wellFormed, Instr.wellFormedFor, List.length_replicate]
  decide

theorem witness_EncodeInvertsDecode :
    decode (byteItems [0x01, 0x0F, 0x00, 0x4E, 0x7F, 0x7F, 0x05]) = .instr (.puChSolo 0x0F 0x7F 0x7F) [.byte 0x05] ∧
    decodeFor otherCfg (byteItems [0x02, 0x01, 0x00, 0x03, 0x41, 0x00, 0x00, 0x04]) = .instr (.sxBulkChannel 0x00 []) [] := by
  decide

theorem witness_ReservedRecordsAreRefused :
    ({ State.reset with port := [.byte 0x08] }.port = .byte 0x08 :: [] ∧ (8 : Nat) ≤ (0x08 : Byte).toNat) ∧
    ({ State.reset with port := [.byte 0x00] }.port = .byte 0x00 :: [] ∧ (0x00 : Byte).toNat = 0) ∧
    ({ State.reset with port := [.byte 0x03, .byte 0x02] }.port = .byte 0x03 :: .byte 0x02 :: [] ∧
      2 ≤ (0x02 : Byte).toNat) := by
  exact ⟨⟨rfl, by decide⟩, ⟨rfl, by decide⟩, ⟨rfl, by decide⟩⟩

/-- Three blocks: the machine, one over the rationals with other parameters, and a binary64 one. -/
theorem witness_StepPerformsTheDecodedCommand :
    decode legalState.port = .instr .get [] ∧ decodeFor otherCfg legalState.port = .instr .get [] ∧
    decodeFor cfg64 (byteItems [0x05]) = .instr .get [] := by decide

theorem witness_StepWaitsForAWholeRecord :
    State.reset.port = [] ∧ (Instr.encSys.wellFormed = true ∧ 1 < (encode .encSys).length ∧
      { State.reset with port := byteItems [0x03] }.port = (encode .encSys).take 1) := by
  exact ⟨rfl, by decide, by decide, rfl⟩

theorem witness_OnlyAWrongItemStopsAStep :
    PortTyped legalState ∧ ¬ PortTyped { State.reset with port := [.real 0] } := by
  constructor
  · unfold PortTyped; decide
  · unfold PortTyped; simp [decode, decodeFor, takeByte]

/-- For the six families of system rows: the greatest value, an explicit channel and no channel. -/
theorem witness_SystemParameterWrites :
    ((0x7F : Byte).toNat ≤ 127 ∧ (0x7F : Byte).toNat ≤ 127 ∧ ((0x0F : Byte).toNat ≤ 15 ∨ (0x0F : Byte) = 0xFF) ∧
      16383 = (0x7F : Byte).toNat * 128 + (0x7F : Byte).toNat) ∧
    ((0xFF : Byte).toNat ≤ 15 ∨ (0xFF : Byte) = 0xFF) := by decide

/-- For the two families of channel rows: bank 15, named by the channel byte and by the cursor. -/
theorem witness_ChannelParameterWrites :
    (0x0F : Byte).toNat = (15 : Fin 16).val ∧
    ((0xFF : Byte) = 0xFF ∧ legalState.p.global.currentChannel = ((15 : Fin 16).val : Int)) ∧
    16383 = (0x7F : Byte).toNat * 128 + (0x7F : Byte).toNat := by decide

theorem witness_GeneralUpdateFollowsTheTable :
    (127 < (0x80 : Byte).toNat ∧ (15 < (0x10 : Byte).toNat ∧ (0x10 : Byte) ≠ 0xFF)) ∧
    ((0x01 : Byte) ≠ 0 ∧ ∀ f : SysField, (0x05 : Byte) ≠ fieldAddress (.sys f)) ∧
    (0x05 : Byte) ≠ fieldAddress (.ch .solo) ∧
    ((0x00 : Byte) = 0 ∧ (0x4E : Byte) = fieldAddress (.ch .solo)) := by
  refine ⟨by decide, ⟨by decide, ?_⟩, by decide, by decide⟩
  intro f; cases f <;> decide

theorem witness_InadmissibleUpdatesAreDropped :
    admissible 0x10 0x00 0x00 = false ∧ admissible 0xFE 0x7F 0x7F = false ∧ admissible 0x00 0x00 0x80 = false := by decide

theorem witness_ChannelWritesGoToTheResolvedBank :
    ((0x0F : Byte).toNat ≤ 15 ∧ ((0xFF : Byte) = 0xFF ∧ 0 ≤ legalState.p.global.currentChannel ∧
      legalState.p.global.currentChannel ≤ 15)) ∧
    (ParamField.ch .pan ≠ .sys .globalCurrentChannel) ∧
    (∃ t, exec (paramInstr (.ch .pan) 0x0F 0x00 0x00) legalState = .next t) ∧
    (∃ t, exec (.pu 0xFF 0x00 0x3B 0x00 0x00) legalState = .next t) ∧
    (∃ t, exec (.sxParamChange 0x7F 0x01 0x3A 0x00 []) legalState = .next t) ∧
    ((Instr.sx [0x41] [0x7F, 0x10, 0x00, 0x3A, 0x00]).wellFormed = true ∧
      ∃ t, exec (.sx [0x41] [0x7F, 0x10, 0x00, 0x3A, 0x00]) legalState = .next t) ∧
    (∃ t, exec (.sxBulkChannel 0x7F [0x00, 0x00, 0x3A, 0x00, 0x00]) legalState = .next t) ∧
    ((∀ w ∈ systemWrites [0x00, 0x04, 0x7F, 0x7F], w.field ≠ .sys .globalCurrentChannel) ∧
      ∃ t, exec (.sxBulkSystem 0x7F [0x00, 0x04, 0x7F, 0x7F]) legalState = .next t) ∧
    (∃ t, exec .get legalState = .next t) := by
  exact ⟨by decide, by decide, ⟨_, rfl⟩, ⟨_, rfl⟩, ⟨_, rfl⟩, ⟨by decide, ⟨_, rfl⟩⟩, ⟨_, rfl⟩, ⟨by decide, ⟨_, rfl⟩⟩, ⟨_, rfl⟩⟩

theorem witness_FieldWriteChangesOneField :
    ((.flag true : Value) = decodeValue (sysTransform .globalBypass) 16383 ∧ SysField.reverbTime ≠ .globalBypass) ∧
    ((.index 127 : Value) = decodeValue (chTransform .insType) 16383 ∧ ChField.pan ≠ .insType ∧ (0 : Fin 16) ≠ 15) := by
  decide

theorem witness_ValueBytesAssemble :
    ((0x7F : Byte).toNat ≤ 127 ∧ (0x00 : Byte).toNat ≤ 127) ∧ 127 < (0x80 : Byte).toNat := by decide

/-- 30_encoding R142, a half rounded up and a value above the range clamped: encode(1/32766) = rhu(1/2) = 1 on LIN(0, 1). -/
theorem test_encode_rounds_half_up :
    encodeValue testCfg.num (.lin 0 1) (.real (1 / 32766) : Value) = 1 ∧
    encodeValue testCfg.num .pan (.real (1 / 32766) : Value) = 1 ∧
    encodeValue testCfg.num (.lin 0 1) (.real 2 : Value) = 16383 ∧
    encodeValue testCfg.num (.lin 0 1) (.real (-1) : Value) = 0 := by decide +kernel

theorem witness_EncodeInvertsTheTransforms :
    testCfg.num.IsExact ∧ ((-12 : Scalar) < 12 ∧ 16383 ≤ 16383) ∧ ((0 : Int) ≤ 127 ∧ (127 : Int) ≤ (127 : Nat)) ∧
    valueLegal (fieldTransform (.sys .eqLowGain) : Transform) (.real 12) ∧
    valueLegal (fieldTransform (.ch .insType) : Transform) (.index 127) ∧
    valueLegal (fieldTransform (.ch .mute) : Transform) (.flag true) ∧
    valueLegal (fieldTransform (.ch .pan) : Transform) (.real 0) := by
  refine ⟨testCfg_isExact, by norm_num, by norm_num, ?_, ?_, ?_, ?_⟩ <;> simp [fieldTransform, sysTransform, chTransform, valueLegal]

theorem witness_ParameterChangeIsAnUpdateThroughTheCursor :
    ((0x7F : Byte).toNat ≤ 127 ∧ (0x04 : Byte) = sysAddress .reverbLevel ∧ (0x4D : Byte) = chAddress .mute ∧
      legalState.p.global.currentChannel = ((15 : Fin 16).val : Int)) ∧
    (128 ≤ (0x80 : Byte).toNat ∧ (0x01 : Byte) ≠ 0 ∧ ([0x00, 0x04] : List Byte).length < 3) := by decide

/-- One message for each clause. -/
theorem witness_MalformedSysExIsIgnored :
    ([0x41] : List Byte) ≠ [0x43] ∧ ([0x7F] : List Byte).length < 2 ∧
    (([0x7F, 0x11] : List Byte)[1]? = some 0x11 ∧ (0x11 : Byte) ≠ 0x10 ∧ (0x11 : Byte) ≠ 0x00) ∧
    (([0x7F, 0x10, 0x00, 0x04] : List Byte)[1]? = some 0x10 ∧ ([0x7F, 0x10, 0x00, 0x04] : List Byte).length < 5) ∧
    (([0x7F, 0x00] : List Byte)[1]? = some 0x00 ∧ ([0x7F, 0x00] : List Byte).length < 3) ∧
    (([0x7F, 0x00, 0x05] : List Byte)[2]? = some 0x05 ∧ (0x05 : Byte) ≠ 0x03 ∧ (0x05 : Byte) ≠ 0x04) := by decide

theorem witness_BulkScannerResynchronises :
    ([0x00, 0x04, 0x7F] : List Byte).length < 4 ∧
    systemRecord [0x00, 0x04, 0x7F, 0x00] = some ⟨.sys .reverbLevel, 0, 16256⟩ ∧
    systemRecord [0x55, 0x00, 0x04, 0x7F, 0x00] = none ∧ ([0x00, 0x00, 0x47, 0x7F] : List Byte).length < 5 ∧
    channelRecord [0x0F, 0x00, 0x47, 0x7F, 0x00] = some ⟨.ch .reverbSend, 15, 16256⟩ ∧
    channelRecord [0x10, 0x00, 0x47, 0x7F, 0x00] = none := by decide

/-- The hypotheses of DumpsFollowTheLayout, the two round trips and SetStoresLegalValues. -/
theorem witness_DumpsAndSet : StateLegal Config.machine legalState ∧
    (∃ body, exec .encSys legalState = .next { legalState with result := some (.bytes (0x43 :: body)) }) ∧
    (∃ body, exec .encChan legalState = .next { legalState with result := some (.bytes (0x43 :: body)) }) :=
  ⟨legalState_legal, ⟨_, rfl⟩, ⟨_, rfl⟩⟩

/-- The hypotheses of GetReturnsTheSnapshot and ResetRestoresTheConstructedState: RST of a state whose chorus pointer is not 0. -/
theorem witness_Reset : ∃ t, exec .rst legalState = .next t ∧ t.rt ≠ legalState.rt := by
  refine ⟨_, rfl, fun h => ?_⟩
  have : (resetRuntime Config.machine).chorus.w = legalState.rt.chorus.w := congrArg (fun r => r.chorus.w) h
  simp [resetRuntime, legalState] at this

section Reset
set_option linter.unusedSectionVars false
variable {K : Type} [Field K] [LinearOrder K] [IsStrictOrderedRing K] [FloorRing K]

theorem resetParams_legal : paramsLegal (Machine.resetParams : Params K) := by
  intro f; cases f <;> simp only [sysTransform, readSys, Machine.resetParams, valueLegal] <;> norm_num

theorem resetChannel_legal : channelLegal (Machine.resetChannel : Channel K) := by
  intro f; cases f <;> simp only [chTransform, readCh, Machine.resetChannel, valueLegal] <;> norm_num

/-- Every bank after reset is legal. -/
theorem resetBanks_legal (c : Fin 16) : channelLegal (Vector.replicate 16 (Machine.resetChannel : Channel K))[c] := by
  simp only [Fin.getElem_fin, Vector.getElem_replicate]
  exact resetChannel_legal

theorem resetRuntime_followers (cfg : Config K) : allFollowersLegal (resetRuntime cfg) := by
  refine ⟨⟨le_refl _, le_refl _, zero_le_one⟩, fun c => ?_⟩
  simp only [resetRuntime, Fin.getElem_fin, Vector.getElem_replicate]
  exact ⟨le_refl _, le_refl _, zero_le_one⟩

theorem resetRuntime_quiet (cfg : Config K) : RuntimeQuiet (resetRuntime cfg) := by
  refine ⟨rfl, fun k => ?_, fun j => ?_, rfl, rfl, rfl, ⟨rfl, rfl, rfl, rfl⟩, fun c => ?_⟩ <;>
    simp only [resetRuntime, Fin.getElem_fin, Vector.getElem_replicate]
  · rfl
  · rfl
  · exact ⟨rfl, rfl, rfl, rfl⟩

theorem resetBanks_block : OnlyBlockTypes (Machine.resetParams : Params K) (Vector.replicate 16 Machine.resetChannel) := by
  refine ⟨.inl rfl, fun c => .inl ?_⟩
  simp only [Fin.getElem_fin, Vector.getElem_replicate]
  rfl

end Reset

theorem soloState_banks_legal (c : Fin 16) : channelLegal soloState.ch[c] := by
  have h : ∀ b : Bool, channelLegal { resetChannel with solo := b } := by
    intro b f; cases b <;> cases f <;> first | exact trivial | exact ⟨by decide +kernel, by decide +kernel⟩
  show channelLegal ((Vector.replicate 16 resetChannel).set (0 : Fin 16) { resetChannel with solo := true })[c]
  rw [getElem_set_bank]
  split
  · exact h true
  · simp only [Fin.getElem_fin, Vector.getElem_replicate]; exact h false

theorem otherCfg_reset_legal : StateLegal otherCfg (State.resetWith otherCfg) where
  params := resetParams_legal
  banks := resetBanks_legal
  runtime := runtimeLegal_reset (capacities_of_valid test_parameters_checked.1) ⟨by decide +kernel, by decide +kernel⟩

theorem witness_ResetStateIsLegal : construct otherCfg = some (State.resetWith otherCfg) :=
  construct_eq_some.2 ⟨test_parameters_checked.1, rfl⟩

theorem witness_EveryStepKeepsTheStateLegal :
    (StateLegal Config.machine legalState ∧ ∃ t, step legalState = .next t) ∧
    (otherCfg.num.IsExact ∧ otherCfg.valid = true ∧ StateLegal otherCfg (State.resetWith otherCfg) ∧
      ∃ t, stepFor otherCfg (State.resetWith otherCfg) = .next t) :=
  ⟨⟨legalState_legal, ⟨_, rfl⟩⟩, testCfg_isExact, test_parameters_checked.1, otherCfg_reset_legal, ⟨_, rfl⟩⟩

theorem witness_FollowersStayInRange :
    0 < testCfg.fs ∧ (∀ x : Scalar, x < 0 → 0 ≤ testCfg.num.exp x ∧ testCfg.num.exp x ≤ 1) ∧
    paramsLegal soloState.p ∧ (∀ c : Fin 16, channelLegal soloState.ch[c]) ∧ allFollowersLegal soloState.rt := by
  refine ⟨by decide +kernel, fun x hx => ?_, resetParams_legal, soloState_banks_legal, resetRuntime_followers _⟩
  show 0 ≤ 1 / (1 - x) ∧ 1 / (1 - x) ≤ 1
  have : 0 < 1 - x := by linarith
  exact ⟨by positivity, by rw [div_le_one this]; linarith⟩

/-- In the reference block: its reset state. The same for SilenceStaysSilent. -/
theorem witness_reference_reset :
    paramsLegal (State.resetWith refCfg).p ∧ (∀ c : Fin 16, channelLegal (State.resetWith refCfg).ch[c]) ∧
    allFollowersLegal (State.resetWith refCfg).rt ∧
    OnlyBlockTypes (State.resetWith refCfg).p (State.resetWith refCfg).ch ∧ RuntimeQuiet (State.resetWith refCfg).rt :=
  ⟨resetParams_legal, resetBanks_legal, resetRuntime_followers _, resetBanks_block, resetRuntime_quiet _⟩

theorem witness_EveryRegisterHasItsWriters :
    (∃ t, exec .encSys legalState = .next t) ∧ (∃ t, exec (paramInstr (.sys .reverbTime) 0xFF 0x00 0x00) legalState = .next t) ∧
    (∃ t, exec (paramInstr (.ch .solo) 0x00 0x7F 0x7F) legalState = .next t) := ⟨⟨_, rfl⟩, ⟨_, rfl⟩, ⟨_, rfl⟩⟩

theorem witness_RingReadsWhatWasWritten : 0 < 4 ∧ ringWf 4 ([(1, 1 / 2), (3, -1)] : RingMemory) = true := by decide +kernel

theorem witness_FractionalReadInterpolates :
    testCfg.num.IsExact ∧ 3 ≤ 4 ∧ (1 ≤ 1 ∧ (0 : Scalar) ≤ 1 / 2 ∧ (1 / 2 : Scalar) < 1 ∧
    ((1 : Nat) : Scalar) + 1 / 2 ≤ ((4 : Nat) : Scalar) - 2) ∧
    2 + 2 ≤ 4 ∧ ((4 : Nat) : Scalar) - 2 ≤ 2 :=
  ⟨testCfg_isExact, by norm_num⟩

theorem witness_DelayedSampleComesBack :
    ringWf 4 (⟨[(0, 7)], 3⟩ : Line).buf = true ∧ (⟨[(0, 7)], 3⟩ : Line).w < 4 ∧ ([1, 2, 3] : List Scalar).length < 4 := by
  decide +kernel

theorem witness_WrongCountsRaiseContractErrors :
    (List.replicate 15 silence).length ≠ 16 ∧ (List.replicate 17 silence).length ≠ 16 ∧
    (List.replicate 16 silence).length = 16 ∧ ([1] : List Scalar).length ≠ 0 ∧
    (List.replicate 15 (1 : Scalar)).length ≠ 16 := by decide

/-- 90_conflicts C3: a (1, 0) input at pan 0.5 and volume 1 gives (0.5, 0.5) under MONO_SUM and (0.5, 0) under PER_SIDE. -/
theorem test_pan_modes : panFrame testCfg resetChannel ⟨1, 0⟩ = ⟨1 / 2, 1 / 2⟩ ∧
    panFrame otherCfg resetChannel ⟨1, 0⟩ = ⟨1 / 2, 0⟩ := by decide +kernel

/-- The channels of `soloState`: 0 is active, 15 is not. One block of each pan mode. -/
theorem witness_ProcMixesEveryChannel :
    (List.replicate 16 silence).length = 16 ∧ ([] : List Scalar).length = 0 ∧ (List.replicate 16 (1 : Scalar)).length = 16 ∧
    isActive soloState.ch soloState.ch[0] = true ∧ isActive soloState.ch soloState.ch[15] = false ∧
    soloState.p.global.bypass = false ∧ legalState.p.global.bypass = true ∧
    testCfg.panMode = .monoSum ∧ otherCfg.panMode = .perSide := by decide +kernel

theorem witness_ActiveSetFollowsSoloAndMute :
    (∃ d : Fin 16, soloState.ch[d].solo = true) ∧ (∀ d : Fin 16, legalState.ch[d].solo = false) := by
  refine ⟨⟨0, by decide⟩, fun d => ?_⟩
  simp [legalState, Machine.resetChannel]

theorem witness_BypassedSlotsDoNotRun :
    (0 < ({ resetChannel with insertionSend := 1 / 2, insBypass := false } : Channel).insertionSend ∧
      ({ resetChannel with insertionSend := 1 / 2, insBypass := false } : Channel).insBypass = false) ∧
    resetChannel.insertionSend ≤ 0 ∧ resetParams.variation.bypass = true ∧
    ({ resetParams.variation with bypass := false } : VariationParams).bypass = false := by decide +kernel

theorem witness_SilenceStaysSilent :
    (∀ x : Scalar, 0 ≤ testCfg.num.pow10 x) ∧ OnlyBlockTypes soloState.p soloState.ch ∧ RuntimeQuiet soloState.rt := by
  refine ⟨fun x => ?_, ⟨.inl rfl, fun c => .inl ?_⟩, resetRuntime_quiet _⟩
  · show 0 ≤ 1 + x * x
    have := mul_self_nonneg x
    linarith
  · show ((Vector.replicate 16 resetChannel).set (0 : Fin 16) { resetChannel with solo := true })[c].insBypass = true
    rw [getElem_set_bank]
    split
    · rfl
    · simp only [Fin.getElem_fin, Vector.getElem_replicate]; rfl

/-- Two runtime states with the same reverb and different chorus pointers, and so on. -/
theorem witness_EffectsKeepToTheirOwnState :
    ({ soloState.rt with chorus.w := 1 }.rv = soloState.rt.rv ∧
    { soloState.rt with chorus.w := 1 }.chorus.w ≠ soloState.rt.chorus.w) ∧
    { soloState.rt with rv.pd.w := 1 }.chorus = soloState.rt.chorus ∧
    { soloState.rt with rv.pd.w := 1 }.variation = soloState.rt.variation := by
  exact ⟨⟨rfl, by decide⟩, rfl, rfl⟩

theorem witness_RouteFollowsOrderAndSends : (0 : Scalar) < 1 / 4 ∧ (0 : Scalar) ≤ 0 := by norm_num

/-- In order 0, with a positive first send and a second send of 0; and the serial example. -/
theorem witness_SerialRouteAddsTheEffects :
    ((0 : Scalar) ≤ 1 / 4 ∧ (0 : Scalar) ≤ 0 ∧ effectOrder 0 = ⟨.reverb, .chorus, .variation⟩ ∧
      1 / 4 = effectSend (⟨0, 1 / 4, 0, 0, 0, 0, 0⟩ : RoutingParams) .reverb .chorus ∧
      0 = effectSend (⟨0, 1 / 4, 0, 0, 0, 0, 0⟩ : RoutingParams) .chorus .variation) ∧
    resetParams.routing = ⟨0, 0, 0, 0, 0, 0, 0⟩ ∧
    ∃ yR rv yC cho yV sl, fxReverb testCfg resetParams.reverb soloState.rt.rv ⟨1, 1⟩ = (yR, rv) ∧
      fxChorus testCfg resetParams.chorus soloState.rt.chorus yR = (yC, cho) ∧
      fxVariation testCfg resetParams.variation soloState.rt.variation (addFrame yR yC) = (yV, sl) :=
  ⟨⟨by norm_num, by norm_num, rfl, rfl, rfl⟩, rfl, _, _, _, _, _, _, rfl, rfl, rfl⟩

theorem witness_EqualizerIsTheIdentityAtZeroGain :
    testCfg.num.pow10 0 = 1 ∧ resetParams.eq.lowGain = 0 ∧ resetParams.eq.midGain = 0 ∧ resetParams.eq.highGain = 0 ∧
    (lowShelf testCfg 0 testCfg.eqLowFreq).a0 ≠ 0 ∧
    (peaking testCfg 0 resetParams.eq.midFreq resetParams.eq.midQ).a0 ≠ 0 ∧
    (highShelf testCfg 0 testCfg.eqHighFreq).a0 ≠ 0 ∧
    (testCfg.num.sqrt 2 ≠ 0 ∧ resetParams.eq.midQ ≠ 0 ∧ testCfg.num.pow10 (-12 / 40) ≠ 0) ∧
    ((⟨1, 2, 1, 2⟩ : BiquadState).x1 = (⟨1, 2, 1, 2⟩ : BiquadState).y1 ∧
    (⟨1, 2, 1, 2⟩ : BiquadState).x2 = (⟨1, 2, 1, 2⟩ : BiquadState).y2) := by
  decide +kernel

/-- In the reference block: the mid band's least frequency and Q, and the reset registers. -/
theorem witness_reference_equalizer :
    ((0 : ℝ) < 100 ∧ 100 < refCfg.fs / 2 ∧ (0 : ℝ) < 1 / 2) ∧
    paramsLegal (State.resetWith refCfg).p ∧ (State.resetWith refCfg).p.eq.lowGain = 0 ∧
    (State.resetWith refCfg).p.eq.midGain = 0 ∧ (State.resetWith refCfg).p.eq.highGain = 0 := by
  refine ⟨by norm_num [refCfg, Config.reference, Config.r7], resetParams_legal, rfl, rfl, rfl⟩

theorem witness_CombsFeedBackWithinTheCount :
    0 < testCfg.combCap ∧ ringWf testCfg.combCap soloState.rt.rv.comb[7].buf = true ∧
    soloState.rt.rv.comb[7].w < testCfg.combCap ∧ combCount testCfg resetParams.reverb ≤ 7 ∧
    7 < combCount testCfg { resetParams.reverb with density := 1 } ∧
    (0 < testCfg.apLen[3] ∧ ringWf testCfg.apLen[3] ([(0, 1), (224, -1)] : RingMemory) = true ∧
    224 < testCfg.apLen[3]) := by decide +kernel

theorem witness_PredelayWritesBeforeItReads :
    ringWf testCfg.pdCap (⟨[(1023, 1)], 1023⟩ : Line).buf = true ∧ (⟨[(1023, 1)], 1023⟩ : Line).w < testCfg.pdCap ∧
    predelayLength testCfg resetParams.reverb = 0 ∧
    0 < predelayLength testCfg { resetParams.reverb with preDelay := 127 / 10000 } := by decide +kernel

theorem witness_ReverbQuantitiesAreInRange :
    testCfg.num.IsExact ∧ (0 ≤ resetParams.reverb.density ∧ 1 ≤ testCfg.combCap ∧ 1 ≤ testCfg.pdCap) ∧
    paramsLegal resetParams ∧ 7 < 8 :=
  ⟨testCfg_isExact, by decide +kernel, resetParams_legal, by decide⟩

/-- A step of 1/4 turn from a phase of 3/2·π wraps exactly to 0; from a phase of 0 it does not wrap. -/
theorem witness_PhasesWrapAtTwoPi :
    testCfg.num.IsExact ∧ (2 * testCfg.num.pi * 11025 / testCfg.fs = 1 / 2 ∧ (0 : Scalar) ≤ 1 / 2 ∧
    (1 / 2 : Scalar) < 2 * testCfg.num.pi) ∧
    ((⟨3 / 2⟩ : Angle).val < 2 ∧ (⟨3 / 2⟩ : Angle).val + 1 / 2 ≥ 2) ∧
    advancePhase testCfg 11025 ⟨3 / 2⟩ = ⟨0⟩ := ⟨testCfg_isExact, by decide +kernel⟩

/-- The same over the reals, in radians: the step is π/2, and the sum is 2π. -/
theorem witness_reference_phase :
    refCfg.num.IsExact ∧ 2 * Real.pi * 11025 / refCfg.fs = Real.pi / 2 ∧ 0 ≤ Real.pi / 2 ∧ Real.pi / 2 < 2 * Real.pi ∧
    0 ≤ (Angle.mk (3 / 2 * Real.pi)).val ∧ (Angle.mk (3 / 2 * Real.pi)).val < 2 * Real.pi ∧
    (Angle.mk (3 / 2 * Real.pi)).val + Real.pi / 2 = 2 * Real.pi := by
  have hpi := Real.pi_pos
  have hfs : refCfg.fs = 44100 := rfl
  simp only [hfs]
  refine ⟨isExact_real _, ?_, ?_, ?_, ?_, ?_, ?_⟩ <;> first | positivity | linarith

/-- A phase of each piece of the triangle, its boundaries among them. -/
theorem witness_WaveformsStayInRange :
    (0 : Scalar) = (⟨0⟩ : Angle).val / (2 * testCfg.num.pi) ∧ 1 / 4 = (Angle.mk (1 / 2)).val / (2 * testCfg.num.pi) ∧
    1 / 2 = (⟨1⟩ : Angle).val / (2 * testCfg.num.pi) ∧
    3 / 4 = (⟨3 / 2⟩ : Angle).val / (2 * testCfg.num.pi) ∧ (3 / 4 : Scalar) < 1 ∧ Waveform.saw ≠ .sine := by decide +kernel

theorem witness_ChorusReadsBothLinesBeforeItWrites :
    testCfg.num.IsExact ∧ ringWf testCfg.chorusCap ([(0, 1), (2047, 2)] : RingMemory) = true ∧ 2047 < testCfg.chorusCap ∧
    ringWf testCfg.flangerCap ([(0, 1), (255, 2)] : RingMemory) = true ∧ 255 < testCfg.flangerCap :=
  ⟨testCfg_isExact, by decide +kernel⟩

theorem witness_EnvelopeStaysBetweenItsInputs :
    (0 < testCfg.fs ∧ (0 : Scalar) < 1 / 100) ∧ ((0 : Scalar) ≤ 1 / 4 ∧ (1 / 4 : Scalar) ≤ 1) ∧ ((0 : Scalar) < 1 ∧
    (1 : Scalar) ≤ 1) := by decide +kernel

/-- Under the stand-ins 10^x is at least 1: an input of 10 rises above the threshold, an input of 0 does not. -/
theorem witness_CompressorReducesAboveTheThreshold :
    (0 : Scalar) ≤ 1 / 2 ∧
    (testCfg.num.pow10 ((-60 + 60 * 1) / 20) <
      follow 10 (max |10| |0|) (rampCoef testCfg (1 / 10000 + 999 / 10000 * 0)) (rampCoef testCfg (1 / 100 + 99 / 100 * 0)) ∧
     follow 10 (max |10| |0|) (rampCoef testCfg (1 / 10000 + 999 / 10000 * 0)) (rampCoef testCfg (1 / 100 + 99 / 100 * 0)) ≠ 0) ∧
    follow 0 (max |0| |0|) (rampCoef testCfg (1 / 10000 + 999 / 10000 * 0)) (rampCoef testCfg (1 / 100 + 99 / 100 * 0)) ≤
      testCfg.num.pow10 ((-60 + 60 * 1) / 20) := by decide +kernel

/-- In the reference block: a time constant of 10 ms is 441 frames; a full-scale level is above a threshold of −60 dB. -/
theorem witness_reference_dynamics :
    ((0 : ℝ) < 1 / 100 ∧ ((441 : Nat) : ℝ) = 1 / 100 * refCfg.fs) ∧
    ((0 : ℝ) ≤ 1 / 2 ∧ (1 : ℝ) = max |1| |0| ∧ (10 : ℝ) ^ ((-60 + 60 * (0 : ℝ)) / 20) < 1) := by
  refine ⟨by norm_num [refCfg, Config.reference, Config.r7], by norm_num, by norm_num, ?_⟩
  exact Real.rpow_lt_one_of_one_lt_of_neg (by norm_num) (by norm_num)

theorem witness_GateOpensHoldsAndCloses :
    testCfg.num.IsExact ∧ (0 < testCfg.fs ∧ (0 : Scalar) ≤ 0) ∧
    testCfg.num.pow10 ((-80 + 80 * 1) / 20) < max |2| |0| ∧ max |0| |0| ≤ testCfg.num.pow10 ((-80 + 80 * 1) / 20) :=
  ⟨testCfg_isExact, by decide +kernel⟩

theorem witness_GateClosesExponentially :
    (0 < testCfg.fs ∧ (0 : Scalar) ≤ 1) ∧
    ∀ x ∈ ([⟨0, 0⟩, ⟨1, -1⟩] : List Stereo), max |x.l| |x.r| ≤ testCfg.num.pow10 ((-80 + 80 * 1) / 20) := by decide +kernel

end Sys2Proof.Tests
end

section
/-! The step, the reverb's quantities, the waveforms and the dynamics: O5, O52, O54, O57, O58, O60. -/

namespace Sys2Proof.Machine

/-! ## The step -/

section
variable {K : Type}

/-- A whole record is taken off the port and performed (30_encoding R130). -/
theorem performRecord_instr (perform : Instr K → State K → Host.Outcome (State K) Fault Refusal) (i : Instr K)
    (rest : List (PortItem K)) (s : State K) :
    performRecord perform (.instr i rest) s = perform i { s with port := rest } := rfl

end

/-- Settles O5: on a decoded record each block's step is `performRecord` of the block's meaning; that the machine is the block
under the third column of R7 is `stepFor_machine` and `execFor_machine`. -/
theorem stepPerformsTheDecodedCommand : Obligations.StepPerformsTheDecodedCommand := by
  refine ⟨?machine, ?block, stepFor_machine, execFor_machine, ?reference, ?binary64⟩
  case machine =>
    intro s i rest h
    rw [step, h, performRecord_instr]
  case block =>
    intro K _ _ _ _ _ _ _ _ _ _ _ _ _ _ cfg s i rest h
    rw [stepFor, h, performRecord_instr]
  case reference =>
    intro z ext s i rest h
    rw [referenceStep, stepFor, h, performRecord_instr]
  case binary64 =>
    intro cfg s i rest h
    simp only [binary64Step, binary64Exec, stepFor, h, performRecord_instr]

/-! ## Arithmetic helpers -/

section
variable {K : Type} [Field K]

theorem scaleFrame_one (x : Stereo K) : scaleFrame 1 x = x := by
  simp only [scaleFrame, one_mul]

variable [LinearOrder K]

/-- Where the divisor is not 0, a quotient is the field's (60_exceptions R394). -/
theorem quot_of_ne_zero (n : Numerics K) (x : K) {y : K} (h : y ≠ 0) : quot n x y = x / y := if_neg h

/-- The level detector is the larger magnitude (46_dynamics R350). -/
theorem levelOf_eq (x : Stereo K) : levelOf x = max |x.l| |x.r| := rfl

/-- Scaling by a gain that is not negative scales the level (46_dynamics R350). -/
theorem levelOf_scaleFrame [IsStrictOrderedRing K] {k : K} (hk : 0 ≤ k) (x : Stereo K) :
    levelOf (scaleFrame k x) = k * levelOf x := by
  simp only [levelOf_eq, scaleFrame, abs_mul, abs_of_nonneg hk, mul_max_of_nonneg _ _ hk]

end

/-- The sample rate of the reference block (00_scope R7). -/
@[simp] theorem reference_fs (z : ℝ → ℝ) (ext : ExtProcs ℝ) : (Config.reference z ext).fs = 44100 := rfl

theorem reference_fs_pos (z : ℝ → ℝ) (ext : ExtProcs ℝ) : 0 < (Config.reference z ext).fs := by
  rw [reference_fs]; norm_num

/-! ## The decay factor and the ramp coefficient (46_dynamics R351) -/

section
variable {K : Type} [Field K] [LinearOrder K]

theorem decayFactor_of_pos [IsStrictOrderedRing K] {cfg : Config K} {t : K} (hfs : 0 < cfg.fs) (ht : 0 < t) :
    decayFactor cfg t = cfg.num.exp (-1 / (t * cfg.fs)) := by
  rw [decayFactor, quot_of_ne_zero _ _ (mul_pos ht hfs).ne']

theorem rampCoef_of_pos (cfg : Config K) {t : K} (ht : 0 < t) : rampCoef cfg t = 1 - decayFactor cfg t := if_pos ht

theorem rampCoef_zero (cfg : Config K) : rampCoef cfg 0 = 1 := if_neg (lt_irrefl 0)

end

/-- In the reference block a decay factor is the real exponential, strictly between 0 and 1. -/
theorem decayFactor_reference (z : ℝ → ℝ) (ext : ExtProcs ℝ) {t : ℝ} (ht : 0 < t) :
    decayFactor (Config.reference z ext) t = Real.exp (-1 / (t * (Config.reference z ext).fs)) :=
  decayFactor_of_pos (reference_fs_pos z ext) ht

theorem decayFactor_reference_mem (z : ℝ → ℝ) (ext : ExtProcs ℝ) {t : ℝ} (ht : 0 < t) :
    0 < decayFactor (Config.reference z ext) t ∧ decayFactor (Config.reference z ext) t < 1 := by
  rw [decayFactor_reference z ext ht]
  have hneg : -1 / (t * (Config.reference z ext).fs) < 0 :=
    div_neg_of_neg_of_pos (by norm_num) (mul_pos ht (reference_fs_pos z ext))
  exact ⟨Real.exp_pos _, Real.exp_lt_one_iff.2 hneg⟩

/-- Over n = t·fs frames the decay is by a factor e (46_dynamics R351). -/
theorem decayFactor_reference_pow (z : ℝ → ℝ) (ext : ExtProcs ℝ) {t : ℝ} (ht : 0 < t) {n : Nat}
    (hn : (n : ℝ) = t * (Config.reference z ext).fs) :
    decayFactor (Config.reference z ext) t ^ n = Real.exp (-1) := by
  have hpos : (n : ℝ) ≠ 0 := hn ▸ (mul_pos ht (reference_fs_pos z ext)).ne'
  rw [decayFactor_reference z ext ht, ← hn, ← Real.exp_nat_mul, mul_div_cancel₀ _ hpos]

/-! ## The envelope follower (46_dynamics R352) -/

section
variable {K : Type} [Field K] [LinearOrder K] [IsStrictOrderedRing K] [FloorRing K]

/-- While the level is above the envelope, the attack coefficient moves the envelope. -/
theorem follow_of_lt {env e : K} (h : env < e) (attack release : K) :
    follow env e attack release = env + attack * (e - env) := by
  rcases follow_cases env e attack release with ⟨-, hf⟩ | ⟨hle, -⟩
  · exact hf
  · exact absurd h hle.not_gt

/-- While the level is not above the envelope, the release coefficient moves it. -/
theorem follow_of_le {env e : K} (h : e ≤ env) (attack release : K) :
    follow env e attack release = env + release * (e - env) := by
  rcases follow_cases env e attack release with ⟨hlt, -⟩ | ⟨-, hf⟩
  · exact absurd hlt h.not_gt
  · exact hf

/-- An envelope that is the level stays. -/
theorem follow_self (env attack release : K) : follow env env attack release = env := by
  rw [follow_of_le le_rfl, sub_self, mul_zero, add_zero]

/-- With one coefficient for both directions. -/
theorem follow_same (env e a : K) : follow env e a a = env + a * (e - env) := by
  rcases follow_cases env e a a with ⟨-, hf⟩ | ⟨-, hf⟩ <;> exact hf

/-- A follower with one coefficient a closes the fraction a of the distance to a constant level in every frame. -/
theorem foldl_follow_replicate (a e : K) (n : Nat) (env : K) :
    (List.replicate n e).foldl (fun env e => follow env e a a) env = e - (1 - a) ^ n * (e - env) := by
  induction n generalizing env with
  | zero => simp
  | succ n ih =>
    rw [List.replicate_succ, List.foldl_cons, ih, follow_same]
    ring

/-- With coefficients in [0, 1] the envelope stays between its old value and the level. -/
theorem follow_mem {env e attack release : K} (ha0 : 0 ≤ attack) (ha1 : attack ≤ 1)
    (hr0 : 0 ≤ release) (hr1 : release ≤ 1) :
    min env e ≤ follow env e attack release ∧ follow env e attack release ≤ max env e := by
  rcases lt_or_ge env e with h | h
  · rw [follow_of_lt h, min_eq_left h.le, max_eq_right h.le]
    have hd : 0 ≤ e - env := sub_nonneg.2 h.le
    have hlow : 0 ≤ attack * (e - env) := mul_nonneg ha0 hd
    have hhigh : attack * (e - env) ≤ e - env := mul_le_of_le_one_left hd ha1
    constructor <;> linarith
  · rw [follow_of_le h, min_eq_right h, max_eq_left h]
    have hd : e - env ≤ 0 := sub_nonpos.2 h
    have hlow : e - env ≤ release * (e - env) := by
      simpa only [one_mul] using mul_le_mul_of_nonpos_right hr1 hd
    have hhigh : release * (e - env) ≤ 0 := mul_nonpos_of_nonneg_of_nonpos hr0 hd
    constructor <;> linarith

end

/-- Settles O57: the follower's two branches and its bounds are lemmas over any numbers; in the reference block a step response
is `foldl_follow_replicate`, whose factor over t·fs frames is 1/e. -/
theorem envelopeStaysBetweenItsInputs : Obligations.EnvelopeStaysBetweenItsInputs := by
  refine ⟨fun K _ _ _ _ => ⟨?coef, ?envelope⟩, ?reference⟩
  case coef =>
    intro cfg t hfs
    exact ⟨fun ht => by rw [rampCoef_of_pos cfg ht, decayFactor_of_pos hfs ht], rampCoef_zero cfg⟩
  case envelope =>
    intro env e attack release ha0 ha1 hr0 hr1
    exact ⟨fun h => follow_of_lt h _ _, fun h => follow_of_le h _ _, follow_mem ha0 ha1 hr0 hr1⟩
  case reference =>
    rintro z ext cfg t rfl ht
    obtain ⟨hpos, hlt⟩ := decayFactor_reference_mem z ext ht
    rw [rampCoef_of_pos _ ht]
    refine ⟨⟨by linarith, by linarith⟩, fun n hn => ?_⟩
    rw [foldl_follow_replicate, sub_sub_cancel, decayFactor_reference_pow z ext ht hn, sub_zero, mul_one]

/-! ## The compressor (46_dynamics R354, R355) -/

section
variable {K : Type} [Field K]

theorem compressorThreshold_eq (cfg : Config K) (p1 : K) :
    compressorThreshold cfg p1 = cfg.num.pow10 ((-60 + 60 * p1) / 20) := rfl

variable [LinearOrder K]

/-- The envelope is updated first, and the gain is that of the updated envelope. -/
theorem procCompressor_eq (cfg : Config K) (x : Stereo K) (p : GenericParams K) (st : CompressorState K) :
    procCompressor cfg x p st =
      (scaleFrame (compressorGain cfg p (compressorEnv cfg x p st.env)) x, ⟨compressorEnv cfg x p st.env⟩) := rfl

/-- At or below the threshold the gain is 1. -/
theorem compressorGain_of_le (cfg : Config K) {p : GenericParams K} {env : K} (h : env ≤ compressorThreshold cfg p.p1) :
    compressorGain cfg p env = 1 := if_neg h.not_gt

/-- Above the threshold the gain is (thr / env)^(1 − 1/ratio). -/
theorem compressorGain_of_lt [IsStrictOrderedRing K] (cfg : Config K) {p : GenericParams K} {env : K} (hp2 : 0 ≤ p.p2)
    (h : compressorThreshold cfg p.p1 < env) (henv : env ≠ 0) :
    compressorGain cfg p env =
      cfg.num.pow (compressorThreshold cfg p.p1 / env) (1 - 1 / (1 + 19 * p.p2)) := by
  have hratio : 1 + 19 * p.p2 ≠ 0 := by positivity
  simp only [compressorGain, if_pos h, quot_of_ne_zero _ _ henv, quot_of_ne_zero _ _ hratio]

end

/-- The static curve: a level env scaled by (thr / env)^(1 − k) is thr·(env / thr)^k (46_dynamics R355). -/
theorem rpow_gain_mul_level {thr env : ℝ} (hthr : 0 < thr) (henv : 0 < env) (k : ℝ) :
    (thr / env) ^ (1 - k) * env = thr * (env / thr) ^ k := by
  have hinv : (thr / env) ^ k = ((env / thr) ^ k)⁻¹ := by
    rw [← Real.inv_rpow (div_pos henv hthr).le, inv_div]
  rw [Real.rpow_sub (div_pos hthr henv), Real.rpow_one, hinv]
  field_simp

/-- Settles O58: the gain is by cases on the threshold; in the reference block a settled envelope is kept by `follow_self`, and
its level is scaled along the static curve by `rpow_gain_mul_level`. -/
theorem compressorReducesAboveTheThreshold : Obligations.CompressorReducesAboveTheThreshold := by
  refine ⟨fun K _ _ _ _ cfg x p st thr env hp2 hthr henv => ?block, ?reference⟩
  case block =>
    have hEnv : compressorEnv cfg x p st.env = env := henv.symm
    have hThr : compressorThreshold cfg p.p1 = thr := by rw [compressorThreshold_eq, hthr]
    rw [procCompressor_eq, hEnv]
    refine ⟨rfl, fun hle => ?_, fun hlt hne gain hgain => ?_⟩
    · rw [compressorGain_of_le cfg (hThr ▸ hle), scaleFrame_one]
    · rw [compressorGain_of_lt cfg hp2 (hThr ▸ hlt) hne, hThr, ← hgain, scaleFrame]
  case reference =>
    intro z ext x p env thr hp2 hthr henv hlt
    have hThr : compressorThreshold (Config.reference z ext) p.p1 = thr := by
      rw [compressorThreshold_eq, hthr, Config.reference_num, Numerics.real_pow10]
    have hThrPos : 0 < thr := hthr ▸ Real.rpow_pos_of_pos (by norm_num) _
    have hEnvPos : 0 < env := hThrPos.trans hlt
    have hEnv : compressorEnv (Config.reference z ext) x p env = env := by
      rw [compressorEnv, levelOf_eq, ← henv, follow_self]
    have hGain : compressorGain (Config.reference z ext) p env = (thr / env) ^ (1 - 1 / (1 + 19 * p.p2)) := by
      rw [compressorGain_of_lt _ hp2 (hThr ▸ hlt) hEnvPos.ne', hThr, Config.reference_num,
        Numerics.real_pow]
    refine ⟨_, by rw [procCompressor_eq, hEnv], ?_⟩
    rw [← levelOf_eq, hGain, levelOf_scaleFrame (by positivity), levelOf_eq, ← henv,
      rpow_gain_mul_level hThrPos hEnvPos]

/-! ## The gate's closing envelope (46_dynamics R356, R357) -/

section
variable {K : Type} [Field K]

theorem gateThreshold_eq (cfg : Config K) (p1 : K) : gateThreshold cfg p1 = cfg.num.pow10 ((-80 + 80 * p1) / 20) := rfl

variable [LinearOrder K] [IsStrictOrderedRing K]

/-- The time constant of a gate is positive for a parameter that is not negative. -/
theorem gateTau_pos {p3 : K} (h : 0 ≤ p3) : 0 < 1 / 1000 + 999 / 1000 * p3 := by positivity

theorem gateDecay_eq {cfg : Config K} {p3 : K} (hfs : 0 < cfg.fs) (h : 0 ≤ p3) :
    gateDecay cfg p3 = cfg.num.exp (-1 / ((1 / 1000 + 999 / 1000 * p3) * cfg.fs)) :=
  decayFactor_of_pos hfs (gateTau_pos h)

variable [FloorRing K]

/-- A closing frame: the gain decays first, and scales the frame with GATE_ATTEN. -/
theorem procGate_of_closing (cfg : Config K) {x : Stereo K} {p : GenericParams K} (h : levelOf x ≤ gateThreshold cfg p.p1)
    (g : K) :
    procGate cfg x p ⟨g, 0⟩ =
      (scaleFrame (g * gateDecay cfg p.p3 * cfg.gateAtten) x, ⟨g * gateDecay cfg p.p3, 0⟩) := by
  rcases procGate_cases cfg x p ⟨g, 0⟩ with ⟨hopen, -⟩ | ⟨-, hhold, -⟩ | ⟨-, -, hclosing⟩
  · exact absurd hopen h.not_gt
  · exact absurd hhold (lt_irrefl 0)
  · exact hclosing

/-- Closing frames multiply the gain by the decay, one factor each. -/
theorem foldl_procGate_of_closing (cfg : Config K) (p : GenericParams K) (frames : List (Stereo K)) (g : K)
    (h : ∀ x ∈ frames, levelOf x ≤ gateThreshold cfg p.p1) :
    frames.foldl (fun st x => (procGate cfg x p st).2) ⟨g, 0⟩ = ⟨g * gateDecay cfg p.p3 ^ frames.length, 0⟩ := by
  induction frames generalizing g with
  | nil => simp
  | cons x frames ih =>
    obtain ⟨hx, hframes⟩ := List.forall_mem_cons.1 h
    rw [List.foldl_cons, procGate_of_closing cfg hx, ih _ hframes, List.length_cons, pow_succ', mul_assoc]

end

/-- Settles O60, by `foldl_procGate_of_closing` for the frames so far and one closing frame more. -/
theorem gateClosesExponentially : Obligations.GateClosesExponentially := by
  refine ⟨fun K _ _ _ _ cfg p frames last g0 c st hfs hp3 hc hquiet hst => ?block, ?reference⟩
  case block =>
    have hclosed : ∀ x ∈ last :: frames, levelOf x ≤ gateThreshold cfg p.p1 := fun x hx => by
      rw [levelOf_eq, gateThreshold_eq]
      exact hquiet x hx
    obtain ⟨hlast, hframes⟩ := List.forall_mem_cons.1 hclosed
    have hDecay : gateDecay cfg p.p3 = c := by rw [gateDecay_eq hfs hp3, hc]
    have hSt : st = ⟨g0 * c ^ frames.length, 0⟩ := by
      rw [hst, foldl_procGate_of_closing cfg p frames g0 hframes, hDecay]
    have hGain : g0 * c ^ frames.length * c * cfg.gateAtten = cfg.gateAtten * (g0 * c ^ (frames.length + 1)) := by ring
    refine ⟨hSt, ?_⟩
    rw [hSt, procGate_of_closing cfg hlast, hDecay, hGain, scaleFrame]
  case reference =>
    rintro z ext cfg p3 rfl hp3
    exact ⟨gateDecay_eq (reference_fs_pos z ext) hp3, decayFactor_reference_mem z ext (gateTau_pos hp3)⟩

/-! ## Waveforms (45_chorus_moddelay R321) -/

section
variable {K : Type} [Field K] [LinearOrder K]

theorem wave_sine (n : Numerics K) (ph : Angle K) : wave n .sine ph = n.sin ph := rfl

theorem wave_triangle (n : Numerics K) (ph : Angle K) {t : K} (ht : t = ph.val / (2 * n.pi)) :
    wave n .triangle ph = if t < 1 / 4 then 4 * t else if t < 3 / 4 then 2 - 4 * t else 4 * t - 4 := by
  rw [ht]; rfl

theorem wave_square (n : Numerics K) (ph : Angle K) {t : K} (ht : t = ph.val / (2 * n.pi)) :
    wave n .square ph = if t < 1 / 2 then 1 else -1 := by
  rw [ht]; rfl

theorem wave_saw (n : Numerics K) (ph : Angle K) {t : K} (ht : t = ph.val / (2 * n.pi)) :
    wave n .saw ph = if t < 1 / 2 then 2 * t else 2 * t - 2 := by
  rw [ht]; rfl

variable [IsStrictOrderedRing K]

/-- Each piece of the triangle, the square and the saw stays in [−1, 1]. -/
theorem wave_mem (n : Numerics K) (ph : Angle K) {t : K} (ht : t = ph.val / (2 * n.pi)) (h0 : 0 ≤ t) (h1 : t < 1)
    (w : Waveform) (hw : w ≠ .sine) : -1 ≤ wave n w ph ∧ wave n w ph ≤ 1 := by
  cases w with
  | sine => exact absurd rfl hw
  | triangle => rw [wave_triangle n ph ht]; split_ifs <;> constructor <;> linarith
  | square => rw [wave_square n ph ht]; split_ifs <;> constructor <;> linarith
  | saw => rw [wave_saw n ph ht]; split_ifs <;> constructor <;> linarith

/-- At phase 0 the triangle, the square and the saw are 0, 1 and 0. -/
theorem wave_zero (n : Numerics K) :
    wave n .triangle ⟨0⟩ = 0 ∧ wave n .square ⟨0⟩ = 1 ∧ wave n .saw ⟨0⟩ = 0 := by
  have ht : (0 : K) = (⟨0⟩ : Angle K).val / (2 * n.pi) := (zero_div _).symm
  rw [wave_triangle n _ ht, wave_square n _ ht, wave_saw n _ ht]
  norm_num

end

/-- Settles O54: the pieces are the branches of each waveform's formula; the sine of the reference block is the real sine. -/
theorem waveformsStayInRange : Obligations.WaveformsStayInRange := by
  refine ⟨fun K _ _ _ _ n ph t ht h0 h1 => ?pieces, fun z ph => ?sine⟩
  case pieces =>
    rw [wave_triangle n ph ht, wave_square n ph ht, wave_saw n ph ht]
    refine ⟨wave_sine n ph, fun h => if_pos h, fun h h' => ?_, fun h => ?_, fun h => ⟨if_pos h, if_pos h⟩,
      fun h => ⟨if_neg h.not_gt, if_neg h.not_gt⟩, wave_mem n ph ht h0 h1, wave_zero n⟩
    · rw [if_neg h.not_gt, if_pos h']
    · rw [if_neg (by linarith), if_neg h.not_gt]
  case sine =>
    rw [wave_sine, wave_sine, Numerics.real_sin, Numerics.real_sin]
    exact ⟨rfl, Real.neg_one_le_sin _, Real.sin_le_one _, Real.sin_zero⟩

/-! ## The reverb's derived quantities (44_reverb R291 to R294) -/

section
variable {K : Type} [Field K]

/-- g_k under the values of 00_scope R7 (44_reverb R293). -/
theorem combGain_r7 (num : Numerics K) (ext : ExtProcs K) (p : ReverbParams K) (k : Nat) :
    combGain (Config.r7 num ext) p k = (70 / 100 + 2 / 100 * k) * (1 - 1 / 2 * p.hfDamping) := rfl

variable [LinearOrder K]

/-- A gain in [0.7, 0.84] times a damping in [1/2, 1]. -/
theorem combGain_r7_mem [IsStrictOrderedRing K] (num : Numerics K) (ext : ExtProcs K) {p : ReverbParams K}
    (h0 : 0 ≤ p.hfDamping) (h1 : p.hfDamping ≤ 1) {k : Nat} (hk : k < 8) :
    35 / 100 ≤ combGain (Config.r7 num ext) p k ∧ combGain (Config.r7 num ext) p k ≤ 84 / 100 := by
  have hk0 : (0 : K) ≤ k := Nat.cast_nonneg k
  have hk7 : (k : K) ≤ 7 := by exact_mod_cast Nat.le_of_lt_succ hk
  rw [combGain_r7]
  constructor
  · calc (35 / 100 : K) = 70 / 100 * (1 / 2) := by norm_num
      _ ≤ (70 / 100 + 2 / 100 * k) * (1 - 1 / 2 * p.hfDamping) :=
        mul_le_mul (by linarith) (by linarith) (by norm_num) (by positivity)
  · calc (70 / 100 + 2 / 100 * k) * (1 - 1 / 2 * p.hfDamping) ≤ 84 / 100 * 1 :=
        mul_le_mul (by linarith) (by linarith) (by linarith) (by norm_num)
      _ = 84 / 100 := mul_one _

variable [FloorRing K]

/-- N is a formula of the density, for a density that is not negative (44_reverb R291). -/
theorem combCount_eq [IsStrictOrderedRing K] {cfg : Config K} (hn : cfg.num.IsExact) {p : ReverbParams K}
    (h : 0 ≤ p.density) : (combCount cfg p : Int) = min 8 (4 + ⌊4 * p.density⌋) := by
  have hfloor : 0 ≤ ⌊4 * p.density⌋ := Int.floor_nonneg.2 (by positivity)
  rw [combCount, hn.floor_eq, Int.toNat_of_nonneg (by omega)]

/-- N is in [4, 8]. -/
theorem combCount_mem [IsStrictOrderedRing K] {cfg : Config K} (hn : cfg.num.IsExact) {p : ReverbParams K}
    (h : 0 ≤ p.density) : 4 ≤ combCount cfg p ∧ combCount cfg p ≤ 8 := by
  have hfloor : 0 ≤ ⌊4 * p.density⌋ := Int.floor_nonneg.2 (by positivity)
  have hN := combCount_eq hn h
  omega

/-- L_k is clamped between 1 and COMB_CAP − 1 (44_reverb R292). -/
theorem combLength_eq {cfg : Config K} (hn : cfg.num.IsExact) (hcap : 1 ≤ cfg.combCap) (p : ReverbParams K) (k : Nat) :
    (combLength cfg p k : Int) =
      min ((cfg.combCap : Int) - 1) (max 1 ⌊cfg.fs * p.time * cfg.combK * (k + 1)⌋) := by
  rw [combLength, hn.floor_eq, clampInt, Int.toNat_of_nonneg (by omega)]

/-- Dp is clamped between 0 and PD_CAP − 1 (44_reverb R294). -/
theorem predelayLength_eq {cfg : Config K} (hn : cfg.num.IsExact) (hcap : 1 ≤ cfg.pdCap) (p : ReverbParams K) :
    (predelayLength cfg p : Int) = min ((cfg.pdCap : Int) - 1) (max 0 ⌊cfg.fs * p.preDelay⌋) := by
  rw [predelayLength, hn.floor_eq, clampInt, Int.toNat_of_nonneg (by omega)]

theorem combLength_r7_mem {num : Numerics K} (hn : num.IsExact) (ext : ExtProcs K) (p : ReverbParams K) (k : Nat) :
    1 ≤ combLength (Config.r7 num ext) p k ∧ combLength (Config.r7 num ext) p k ≤ 16383 := by
  have hcap : (Config.r7 num ext).combCap = 16384 := rfl
  have hL := combLength_eq (cfg := Config.r7 num ext) hn (by omega) p k
  omega

theorem predelayLength_r7_le {num : Numerics K} (hn : num.IsExact) (ext : ExtProcs K) (p : ReverbParams K) :
    predelayLength (Config.r7 num ext) p ≤ 1023 := by
  have hcap : (Config.r7 num ext).pdCap = 1024 := rfl
  have hD := predelayLength_eq (cfg := Config.r7 num ext) hn (by omega) p
  omega

end

/-- Settles O52: the formulas are the definitions with their clamps, and the ranges are read off the clamps. -/
theorem reverbQuantitiesAreInRange : Obligations.ReverbQuantitiesAreInRange := by
  intro K _ _ _ _
  refine ⟨fun cfg p k hn => ?formulas, ?ranges⟩
  case formulas =>
    exact ⟨rfl, combCount_eq hn, fun hcap => combLength_eq hn hcap p k, fun hcap => predelayLength_eq hn hcap p⟩
  case ranges =>
    rintro num ext cfg p k rfl hn hlegal hk
    obtain ⟨hdensity, -⟩ : 0 ≤ p.reverb.density ∧ p.reverb.density ≤ 1 := hlegal .reverbDensity
    obtain ⟨hdamp0, hdamp1⟩ : 0 ≤ p.reverb.hfDamping ∧ p.reverb.hfDamping ≤ 1 := hlegal .reverbHfDamping
    obtain ⟨hN4, hN8⟩ := combCount_mem (cfg := Config.r7 num ext) hn hdensity
    obtain ⟨hL1, hLcap⟩ := combLength_r7_mem hn ext p.reverb k
    exact ⟨hN4, hN8, hL1, hLcap, predelayLength_r7_le hn ext p.reverb, combGain_r7_mem num ext hdamp0 hdamp1 hk⟩

end Sys2Proof.Machine
end

section
/-! The equalizer (42_routing_eq R250 to R257): O49. -/

namespace Sys2Proof.Machine

/-! ## Coefficients (42_routing_eq R251 to R255) -/

section
variable {K : Type} [Field K]

/-- The angle of a band, in the unit of the block (42_routing_eq R251). -/
theorem bandOmega_eq (cfg : Config K) (f0 : K) : bandOmega cfg f0 = ⟨2 * cfg.num.pi * f0 / cfg.fs⟩ := rfl

theorem bandAmp_zero {cfg : Config K} (h : cfg.num.pow10 0 = 1) : bandAmp cfg 0 = 1 := by
  rw [bandAmp, zero_div, h]

variable [LinearOrder K]

theorem shelfAlpha_eq {cfg : Config K} (h : cfg.num.sqrt 2 ≠ 0) (f0 : K) :
    shelfAlpha cfg f0 = cfg.num.sin (bandOmega cfg f0) / cfg.num.sqrt 2 := quot_of_ne_zero _ _ h

/-- The peaking band where neither quality nor amplitude is 0 (42_routing_eq R253). -/
theorem peaking_eq [IsStrictOrderedRing K] {cfg : Config K} {gain f0 q A al : K} (hA : A = bandAmp cfg gain) (hq : q ≠ 0)
    (hA0 : A ≠ 0) (hal : al = cfg.num.sin (bandOmega cfg f0) / (2 * q)) :
    peaking cfg gain f0 q =
      ⟨1 + al * A, -2 * cfg.num.cos (bandOmega cfg f0), 1 - al * A, 1 + al / A, -2 * cfg.num.cos (bandOmega cfg f0),
        1 - al / A⟩ := by
  subst hA hal
  simp only [peaking, quot_of_ne_zero _ _ (mul_ne_zero two_ne_zero hq), quot_of_ne_zero _ _ hA0]

/-- A band whose numerator is its denominator (at 0 dB, 42_routing_eq R257). -/
structure RawCoeffs.IsUnity (c : RawCoeffs K) : Prop where
  b0 : c.b0 = c.a0
  b1 : c.b1 = c.a1
  b2 : c.b2 = c.a2

theorem isUnity_lowShelf_zero {cfg : Config K} (h : cfg.num.pow10 0 = 1) (f0 : K) : (lowShelf cfg 0 f0).IsUnity := by
  constructor <;> simp only [lowShelf, bandAmp_zero h] <;> ring

theorem isUnity_highShelf_zero {cfg : Config K} (h : cfg.num.pow10 0 = 1) (f0 : K) : (highShelf cfg 0 f0).IsUnity := by
  constructor <;> simp only [highShelf, bandAmp_zero h] <;> ring

theorem isUnity_peaking_zero {cfg : Config K} (h : cfg.num.pow10 0 = 1) (f0 q : K) : (peaking cfg 0 f0 q).IsUnity := by
  constructor <;> simp only [peaking, bandAmp_zero h, quot_of_ne_zero _ _ one_ne_zero, mul_one, div_one]

/-! ## Biquads and the cascade (42_routing_eq R250, R256) -/

/-- A band in its direct form, with the division by a0 taken out of the sum (42_routing_eq R255, R256). -/
theorem biquad_normalise (cfg : Config K) {c : RawCoeffs K} (h : c.a0 ≠ 0) (st : BiquadState K) (u : K) {y : K}
    (hy : y = (c.b0 * u + c.b1 * st.x1 + c.b2 * st.x2 - c.a1 * st.y1 - c.a2 * st.y2) / c.a0) :
    biquad (normalise cfg c) st u = (y, ⟨u, st.x1, y, st.y1⟩) := by
  have hsum : c.b0 / c.a0 * u + c.b1 / c.a0 * st.x1 + c.b2 / c.a0 * st.x2 - c.a1 / c.a0 * st.y1 -
      c.a2 / c.a0 * st.y2 = y := by rw [hy]; ring
  simp only [biquad, normalise, quot_of_ne_zero _ _ h, hsum]

/-- A band at 0 dB passes its input on, where the history of its outputs is that of its inputs. -/
theorem biquad_of_isUnity (cfg : Config K) {c : RawCoeffs K} (hc : c.IsUnity) (h : c.a0 ≠ 0) {st : BiquadState K}
    (hst : st.x1 = st.y1 ∧ st.x2 = st.y2) (u : K) :
    biquad (normalise cfg c) st u = (u, ⟨u, st.x1, u, st.x1⟩) := by
  obtain ⟨h1, h2⟩ := hst
  have hy : u = (c.b0 * u + c.b1 * st.x1 + c.b2 * st.x2 - c.a1 * st.y1 - c.a2 * st.y2) / c.a0 := by
    rw [hc.b0, hc.b1, hc.b2, ← h1, ← h2, eq_div_iff h]
    ring
  rw [biquad_normalise cfg h st u hy, h1]

/-- The cascade low, mid, high (42_routing_eq R250). -/
theorem eqSide_of_bands (cfg : Config K) (p : EqParams K) (st : EqSide K) (u : K) {low mid high : K × BiquadState K}
    (hlow : low = biquad (normalise cfg (lowShelf cfg p.lowGain cfg.eqLowFreq)) st.low u)
    (hmid : mid = biquad (normalise cfg (peaking cfg p.midGain p.midFreq p.midQ)) st.mid low.1)
    (hhigh : high = biquad (normalise cfg (highShelf cfg p.highGain cfg.eqHighFreq)) st.high mid.1) :
    eqSide cfg p st u = (high.1, ⟨low.2, mid.2, high.2⟩) := by
  rw [hhigh, hmid, hlow, eqSide]

/-- With its three gains 0 dB a side passes its input on (42_routing_eq R257). -/
theorem eqSide_of_zero_gains {cfg : Config K} {p : EqParams K} {st : EqSide K} (h : cfg.num.pow10 0 = 1)
    (hlow : p.lowGain = 0) (hmid : p.midGain = 0) (hhigh : p.highGain = 0)
    (hlow0 : (lowShelf cfg 0 cfg.eqLowFreq).a0 ≠ 0) (hmid0 : (peaking cfg 0 p.midFreq p.midQ).a0 ≠ 0)
    (hhigh0 : (highShelf cfg 0 cfg.eqHighFreq).a0 ≠ 0)
    (hstLow : st.low.x1 = st.low.y1 ∧ st.low.x2 = st.low.y2) (hstMid : st.mid.x1 = st.mid.y1 ∧ st.mid.x2 = st.mid.y2)
    (hstHigh : st.high.x1 = st.high.y1 ∧ st.high.x2 = st.high.y2) (u : K) :
    eqSide cfg p st u =
      (u, ⟨⟨u, st.low.x1, u, st.low.x1⟩, ⟨u, st.mid.x1, u, st.mid.x1⟩, ⟨u, st.high.x1, u, st.high.x1⟩⟩) := by
  refine eqSide_of_bands cfg p st u (low := (u, _)) (mid := (u, _)) (high := (u, _)) ?low ?mid ?high
  case low => rw [hlow, biquad_of_isUnity cfg (isUnity_lowShelf_zero h _) hlow0 hstLow]
  case mid => rw [hmid, biquad_of_isUnity cfg (isUnity_peaking_zero h _ _) hmid0 hstMid]
  case high => rw [hhigh, biquad_of_isUnity cfg (isUnity_highShelf_zero h _) hhigh0 hstHigh]

end

/-! ## The reference block -/

/-- A shelf's a0 is positive where its amplitude is, and its angle lies strictly between 0 and π. -/
theorem shelf_a0_pos {A cs q : ℝ} (hA : 0 < A) (hcs : -1 < cs ∧ cs < 1) (hq : 0 < q) :
    0 < A + 1 + (A - 1) * cs + q ∧ 0 < A + 1 - (A - 1) * cs + q := by
  obtain ⟨hcs0, hcs1⟩ := hcs
  have hplus : 0 < A * (1 + cs) := mul_pos hA (by linarith)
  have hminus : 0 < A * (1 - cs) := mul_pos hA (by linarith)
  constructor <;> linarith

section
variable (z : ℝ → ℝ) (ext : ExtProcs ℝ)

theorem reference_bandOmega (f0 : ℝ) :
    (bandOmega (Config.reference z ext) f0).val = 2 * Real.pi * f0 / (Config.reference z ext).fs := rfl

theorem reference_bandAmp_pos (gain : ℝ) : 0 < bandAmp (Config.reference z ext) gain :=
  Real.rpow_pos_of_pos (by norm_num) _

theorem reference_pow10_zero : (Config.reference z ext).num.pow10 0 = 1 := Real.rpow_zero 10

variable {f0 : ℝ} (h0 : 0 < f0) (h1 : f0 < (Config.reference z ext).fs / 2)
include h0 h1

/-- A frequency between 0 and fs/2 has its angle between 0 and π. -/
theorem reference_bandOmega_mem :
    0 < (bandOmega (Config.reference z ext) f0).val ∧ (bandOmega (Config.reference z ext) f0).val < Real.pi := by
  have hfs := reference_fs_pos z ext
  have hpi := Real.pi_pos
  rw [reference_bandOmega]
  refine ⟨by positivity, ?_⟩
  rw [div_lt_iff₀ hfs]
  have := mul_lt_mul_of_pos_left h1 hpi
  linarith

theorem reference_sin_pos : 0 < (Config.reference z ext).num.sin (bandOmega (Config.reference z ext) f0) := by
  obtain ⟨hw0, hw1⟩ := reference_bandOmega_mem z ext h0 h1
  exact Real.sin_pos_of_pos_of_lt_pi hw0 hw1

theorem reference_cos_mem : -1 < (Config.reference z ext).num.cos (bandOmega (Config.reference z ext) f0) ∧
    (Config.reference z ext).num.cos (bandOmega (Config.reference z ext) f0) < 1 := by
  have hs : 0 < Real.sin (bandOmega (Config.reference z ext) f0).val := reference_sin_pos z ext h0 h1
  have hsq := Real.sin_sq_add_cos_sq (bandOmega (Config.reference z ext) f0).val
  rw [Config.reference_num, Numerics.real_cos, ← abs_lt, ← sq_lt_one_iff_abs_lt_one]
  have := pow_pos hs 2
  linarith

/-- The product 2·sqrt(A)·al of a shelf is positive. -/
theorem reference_shelf_term_pos (gain : ℝ) :
    0 < 2 * (Config.reference z ext).num.sqrt (bandAmp (Config.reference z ext) gain) *
      shelfAlpha (Config.reference z ext) f0 := by
  have hsqrt2 : 0 < (Config.reference z ext).num.sqrt 2 := Real.sqrt_pos.2 two_pos
  have hsqrtA : 0 < (Config.reference z ext).num.sqrt (bandAmp (Config.reference z ext) gain) :=
    Real.sqrt_pos.2 (reference_bandAmp_pos z ext gain)
  have hal : 0 < shelfAlpha (Config.reference z ext) f0 := by
    rw [shelfAlpha_eq hsqrt2.ne']
    exact div_pos (reference_sin_pos z ext h0 h1) hsqrt2
  positivity

theorem reference_lowShelf_a0_pos (gain : ℝ) : 0 < (lowShelf (Config.reference z ext) gain f0).a0 :=
  (shelf_a0_pos (reference_bandAmp_pos z ext gain) (reference_cos_mem z ext h0 h1)
    (reference_shelf_term_pos z ext h0 h1 gain)).1

theorem reference_highShelf_a0_pos (gain : ℝ) : 0 < (highShelf (Config.reference z ext) gain f0).a0 :=
  (shelf_a0_pos (reference_bandAmp_pos z ext gain) (reference_cos_mem z ext h0 h1)
    (reference_shelf_term_pos z ext h0 h1 gain)).2

theorem reference_peaking_a0_pos (gain : ℝ) {q : ℝ} (hq : 0 < q) :
    0 < (peaking (Config.reference z ext) gain f0 q).a0 := by
  have hA := reference_bandAmp_pos z ext gain
  have hsin := reference_sin_pos z ext h0 h1
  rw [peaking_eq rfl hq.ne' hA.ne' rfl]
  positivity

end

/-- In the reference block, with its three gains 0 dB, a side passes its input on from its reset state (42_routing_eq R257). -/
theorem reference_eqSide_reset (z : ℝ → ℝ) (ext : ExtProcs ℝ) {p : Params ℝ} (hp : paramsLegal p)
    (hlow : p.eq.lowGain = 0) (hmid : p.eq.midGain = 0) (hhigh : p.eq.highGain = 0) (u : ℝ) :
    (eqSide (Config.reference z ext) p.eq resetEqSide u).1 = u := by
  obtain ⟨hf0, hf1⟩ : 100 ≤ p.eq.midFreq ∧ p.eq.midFreq ≤ 10000 := hp .eqMidFreq
  obtain ⟨hq, -⟩ : 1 / 2 ≤ p.eq.midQ ∧ p.eq.midQ ≤ 10 := hp .eqMidQ
  have hnyquist : (Config.reference z ext).fs / 2 = 22050 := by rw [reference_fs]; norm_num
  have hlow0 : (lowShelf (Config.reference z ext) 0 200).a0 ≠ 0 :=
    (reference_lowShelf_a0_pos z ext (by norm_num) (by rw [hnyquist]; norm_num) 0).ne'
  have hmid0 : (peaking (Config.reference z ext) 0 p.eq.midFreq p.eq.midQ).a0 ≠ 0 :=
    (reference_peaking_a0_pos z ext (by linarith) (by rw [hnyquist]; linarith) 0 (by linarith)).ne'
  have hhigh0 : (highShelf (Config.reference z ext) 0 5000).a0 ≠ 0 :=
    (reference_highShelf_a0_pos z ext (by norm_num) (by rw [hnyquist]; norm_num) 0).ne'
  rw [eqSide_of_zero_gains (reference_pow10_zero z ext) hlow hmid hhigh hlow0 hmid0 hhigh0 ⟨rfl, rfl⟩ ⟨rfl, rfl⟩
    ⟨rfl, rfl⟩]

/-- Settles O49: at 0 dB every band has its numerator for its denominator (`RawCoeffs.IsUnity`), so each biquad and with it the
cascade passes its input on; in the reference block a0 is positive since the band's angle lies between 0 and π. -/
theorem equalizerIsTheIdentityAtZeroGain : Obligations.EqualizerIsTheIdentityAtZeroGain := by
  refine ⟨fun K _ _ _ _ => ⟨?identity, fun _ _ _ _ => rfl, ?cascade, ?band, ?coefficients⟩, ?reference⟩
  case identity =>
    intro cfg p st u h hlow hmid hhigh hlow0 hmid0 hhigh0 hstLow hstMid hstHigh
    exact eqSide_of_zero_gains h hlow hmid hhigh hlow0 hmid0 hhigh0 hstLow hstMid hstHigh u
  case cascade => exact fun cfg p st u low mid high hl hm hh => eqSide_of_bands cfg p st u hl hm hh
  case band => exact fun cfg c st u y h hy => biquad_normalise cfg h st u hy
  case coefficients =>
    rintro cfg gain f0 q A cs sn al hA rfl rfl
    rw [← bandOmega_eq]
    refine ⟨fun h2 hal => ?_, fun hq hA0 hal => peaking_eq hA hq hA0 hal⟩
    have hAl : shelfAlpha cfg f0 = al := by rw [shelfAlpha_eq h2, hal]
    have hAmp : bandAmp cfg gain = A := hA.symm
    simp only [lowShelf, highShelf, hAl, hAmp, and_self]
  case reference =>
    rintro z ext cfg rfl
    refine ⟨fun gain f0 q h0 h1 hq => ?_, fun f0 => ⟨rfl, rfl⟩, fun p u hp hlow hmid hhigh => ?_⟩
    · exact ⟨reference_lowShelf_a0_pos z ext h0 h1 gain, reference_peaking_a0_pos z ext h0 h1 gain hq,
        reference_highShelf_a0_pos z ext h0 h1 gain⟩
    · rw [equalize]
      ext
      · exact reference_eqSide_reset z ext hp hlow hmid hhigh u.l
      · exact reference_eqSide_reset z ext hp hlow hmid hhigh u.r

end Sys2Proof.Machine
end

section
/-! The PU rows of the descriptor table, entity by entity: O8 to O15. -/

namespace Sys2Proof.Machine

/-! ## Decoded values (30_encoding R140) -/

section
variable {K : Type} [Field K]

/-- A linear field of width d. -/
theorem decodeValue_lin {lo hi d : K} (h : hi - lo = d) (v : Nat) :
    decodeValue (.lin lo hi) v = .real (lo + d * v / 16383) := by
  rw [← h]; rfl

/-- A linear field that begins at 0. -/
theorem decodeValue_lin_zero (hi : K) (v : Nat) : decodeValue (.lin 0 hi) v = .real (hi * v / 16383) := by
  rw [decodeValue_lin (sub_zero hi), zero_add]

/-- A field in [0, 1]. -/
theorem decodeValue_lin_unit (v : Nat) : decodeValue (.lin (0 : K) 1) v = .real (v / 16383) := by
  rw [decodeValue_lin_zero, one_mul]

end

/-! ## Rows (40_protocol R180, R183) -/

section
variable {ch vH vL : Byte} {s : State} {v : Nat} (hH : vH.toNat ≤ 127) (hL : vL.toNat ≤ 127)
  (hv : v = vH.toNat * 128 + vL.toNat)
include hH hL hv

/-- An admissible row of a system field stores the decoded value, whatever the channel byte is, and answers OK. -/
theorem exec_sysRow (hch : ch.toNat ≤ 15 ∨ ch = 0xFF) (f : SysField) {x : Value}
    (hx : decodeValue (sysTransform f) v = x) :
    exec (paramInstr (.sys f) ch vH vL) s = .next { s with p := writeSys s.p f x, result := some .ok } := by
  subst hv hx
  rw [exec_paramInstr, paramWrite_of_admissible _ ((admissible_iff ch vH vL).2 ⟨hH, hL, hch⟩), writeField_sys]
  rfl

/-- A row of a channel field stores the decoded value in the bank that its channel byte, or the cursor, names. -/
theorem exec_chRow {c : Fin 16} (hc : ch.toNat = c.val ∨ (ch = 0xFF ∧ s.p.global.currentChannel = (c.val : Int)))
    (f : ChField) {x : Value} (hx : decodeValue (chTransform f) v = x) :
    exec (paramInstr (.ch f) ch vH vL) s =
      .next { s with ch := s.ch.set c (writeCh s.ch[c] f x), result := some .ok } := by
  have hch : ch.toNat ≤ 15 ∨ ch = 0xFF := hc.imp (fun h => by omega) (fun h => h.1)
  subst hv hx
  rw [exec_paramInstr, paramWrite_of_admissible _ ((admissible_iff ch vH vL).2 ⟨hH, hL, hch⟩), resolveChannel_eq hc,
    writeField_ch]
  rfl

end

/-- Settles O8, by `exec_sysRow` at each field with its decoded value. -/
theorem reverbParameterWritesStoreTheDecodedValue : Obligations.ReverbParameterWritesStoreTheDecodedValue := by
  intro ch vH vL s v hH hL hch hv
  have row := @exec_sysRow ch vH vL s v hH hL hv hch
  exact ⟨row .reverbTime (decodeValue_lin (by norm_num) v), row .reverbPreDelay (decodeValue_lin_zero _ v),
    row .reverbHfDamping (decodeValue_lin_unit v), row .reverbDensity (decodeValue_lin_unit v),
    row .reverbLevel (decodeValue_lin_unit v)⟩

/-- Settles O9, by `exec_sysRow` at each field with its decoded value. -/
theorem chorusParameterWritesStoreTheDecodedValue : Obligations.ChorusParameterWritesStoreTheDecodedValue := by
  intro ch vH vL s v hH hL hch hv
  have row := @exec_sysRow ch vH vL s v hH hL hv hch
  exact ⟨row .chorusRate (decodeValue_lin_zero _ v), row .chorusDepth (decodeValue_lin_unit v),
    row .chorusFeedback (decodeValue_lin_unit v), row .chorusCrossFeedback (decodeValue_lin_unit v),
    row .chorusBaseDelay (decodeValue_lin (by norm_num) v), row .chorusOutput (decodeValue_lin_unit v),
    row .chorusLevel (decodeValue_lin_unit v)⟩

/-- Settles O10, by `exec_sysRow`; the type id and the flag are decoded by their transforms as they stand. -/
theorem variationParameterWritesStoreTheDecodedValue : Obligations.VariationParameterWritesStoreTheDecodedValue := by
  intro ch vH vL s v hH hL hch hv
  have row := @exec_sysRow ch vH vL s v hH hL hv hch
  exact ⟨row .variationType rfl, row .variationParam1 (decodeValue_lin_unit v),
    row .variationParam2 (decodeValue_lin_unit v), row .variationParam3 (decodeValue_lin_unit v),
    row .variationParam4 (decodeValue_lin_unit v), row .variationLevel (decodeValue_lin_unit v),
    row .variationBypass rfl⟩

/-- Settles O11, by `exec_sysRow` at each field with its decoded value. -/
theorem equalizerParameterWritesStoreTheDecodedValue : Obligations.EqualizerParameterWritesStoreTheDecodedValue := by
  intro ch vH vL s v hH hL hch hv
  have row := @exec_sysRow ch vH vL s v hH hL hv hch
  exact ⟨row .eqLowGain (decodeValue_lin (by norm_num) v), row .eqMidGain (decodeValue_lin (by norm_num) v),
    row .eqHighGain (decodeValue_lin (by norm_num) v), row .eqMidFreq (decodeValue_lin (by norm_num) v),
    row .eqMidQ (decodeValue_lin (by norm_num) v)⟩

/-- Settles O12, by `exec_sysRow` at each field with its decoded value. -/
theorem routingParameterWritesStoreTheDecodedValue : Obligations.RoutingParameterWritesStoreTheDecodedValue := by
  intro ch vH vL s v hH hL hch hv
  have row := @exec_sysRow ch vH vL s v hH hL hv hch
  exact ⟨row .routingEffectOrder rfl, row .routingSendReverbToChorus (decodeValue_lin_unit v),
    row .routingSendReverbToVariation (decodeValue_lin_unit v),
    row .routingSendChorusToReverb (decodeValue_lin_unit v),
    row .routingSendChorusToVariation (decodeValue_lin_unit v),
    row .routingSendVariationToReverb (decodeValue_lin_unit v),
    row .routingSendVariationToChorus (decodeValue_lin_unit v)⟩

/-- Settles O13, by `exec_sysRow` at each field with its decoded value. -/
theorem globalParameterWritesStoreTheDecodedValue : Obligations.GlobalParameterWritesStoreTheDecodedValue := by
  intro ch vH vL s v hH hL hch hv
  have row := @exec_sysRow ch vH vL s v hH hL hv hch
  exact ⟨row .globalMasterLevel (decodeValue_lin_unit v), row .globalBypass rfl, row .globalCurrentChannel rfl⟩

/-- Settles O14, by `exec_chRow` at each field with its decoded value. -/
theorem insertionParameterWritesStoreTheDecodedValue : Obligations.InsertionParameterWritesStoreTheDecodedValue := by
  intro ch vH vL s v c hH hL hv hc
  have row := @exec_chRow ch vH vL s v hH hL hv c hc
  exact ⟨row .insType rfl, row .insParam1 (decodeValue_lin_unit v), row .insParam2 (decodeValue_lin_unit v),
    row .insParam3 (decodeValue_lin_unit v), row .insParam4 (decodeValue_lin_unit v),
    row .insLevel (decodeValue_lin_unit v), row .insBypass rfl⟩

/-- Settles O15, by `exec_chRow`; a pan position is decoded by its own transform. -/
theorem channelParameterWritesStoreTheDecodedValue : Obligations.ChannelParameterWritesStoreTheDecodedValue := by
  intro ch vH vL s v c hH hL hv hc
  have row := @exec_chRow ch vH vL s v hH hL hv c hc
  exact ⟨row .reverbSend (decodeValue_lin_unit v), row .chorusSend (decodeValue_lin_unit v),
    row .variationSend (decodeValue_lin_unit v), row .insertionSend (decodeValue_lin_unit v), row .pan rfl,
    row .volume (decodeValue_lin_unit v), row .mute rfl, row .solo rfl⟩

end Sys2Proof.Machine
end

section
/-! What a command can do, and the invariants of a step: O35, O37. -/

namespace Sys2Proof.Machine

/-! ## One inversion lemma for the meanings -/

section
variable {K : Type} [Zero K] [One K] [Add K] [Sub K] [Mul K] [Div K] [Neg K] [NatCast K] [IntCast K] [Max K] [Min K]
  [LT K] [DecidableLT K] [DecidableEq K]

/-- The state that each command leaves: which shared operation it is, and its result. -/
inductive Leaves (cfg : Config K) (s : State K) : Instr K → State K → Prop
  | row (f : ParamField) (ch vH vL : Byte) :
      Leaves cfg s (paramInstr f ch vH vL) (answer .ok (paramWrite f ch vH vL s))
  | pu (ch aH aL vH vL : Byte) : Leaves cfg s (.pu ch aH aL vH vL) (answer .ok (parameterUpdate ch aH aL vH vL s))
  | sx (vendor body : List Byte) : Leaves cfg s (.sx vendor body) (answer .ok (sysEx cfg vendor body s))
  | sxParamChange (dev aH aL value : Byte) (tail : List Byte) :
      Leaves cfg s (.sxParamChange dev aH aL value tail) (answer .ok (parameterUpdate 0xFF aH aL value 0x00 s))
  | sxBulkSystem (dev : Byte) (records : List Byte) :
      Leaves cfg s (.sxBulkSystem dev records) (answer .ok (applyWrites (systemWrites records) s))
  | sxBulkChannel (dev : Byte) (records : List Byte) :
      Leaves cfg s (.sxBulkChannel dev records) (answer .ok (applyWrites (channelWrites records) s))
  | encSys : Leaves cfg s .encSys (answer (.bytes (systemDump cfg s.p)) s)
  | encChan : Leaves cfg s .encChan (answer (.bytes (channelDump cfg s.ch)) s)
  | proc (frames : List (Stereo K)) (levels : List K) :
      Leaves cfg s (.proc frames levels) (processCommand cfg frames levels s)
  | get : Leaves cfg s .get (answer (.snapshot (snapshotOf s)) s)
  | set (snap : Snapshot K) : Leaves cfg s (.set snap) (answer .ok (storeSnapshot (legalSnapshot snap) s))
  | rst : Leaves cfg s .rst (answer .ok (resetBlock cfg s))

/-- What a meaning answers in a block with any parameters. -/
theorem execFor_leaves (cfg : Config K) (i : Instr K) (s : State K) :
    ∃ t, execFor cfg i s = .next t ∧ Leaves cfg s i t := by
  rcases instr_cases i with ⟨f, ch, vH, vL, rfl⟩ | ⟨ch, aH, aL, vH, vL, rfl⟩ | ⟨vendor, body, rfl⟩ |
    ⟨dev, aH, aL, value, tail, rfl⟩ | ⟨dev, records, rfl⟩ | ⟨dev, records, rfl⟩ | rfl | rfl | ⟨frames, levels, rfl⟩ |
    rfl | ⟨snap, rfl⟩ | rfl
  · exact ⟨_, execFor_paramInstr cfg f ch vH vL s, .row f ch vH vL⟩
  · exact ⟨_, rfl, .pu ch aH aL vH vL⟩
  · exact ⟨_, rfl, .sx vendor body⟩
  · exact ⟨_, rfl, .sxParamChange dev aH aL value tail⟩
  · exact ⟨_, rfl, .sxBulkSystem dev records⟩
  · exact ⟨_, rfl, .sxBulkChannel dev records⟩
  · exact ⟨_, rfl, .encSys⟩
  · exact ⟨_, rfl, .encChan⟩
  · exact ⟨_, rfl, .proc frames levels⟩
  · exact ⟨_, rfl, .get⟩
  · exact ⟨_, rfl, .set snap⟩
  · exact ⟨_, rfl, .rst⟩

theorem leaves_of_execFor {cfg : Config K} {i : Instr K} {s t : State K} (h : execFor cfg i s = .next t) :
    Leaves cfg s i t := by
  obtain ⟨u, hu, hleaves⟩ := execFor_leaves cfg i s
  obtain rfl : u = t := Host.Outcome.next.inj (hu.symm.trans h)
  exact hleaves

/-! ## The writers of each part of the state (10_state R71) -/

theorem paramWrite_sys_ch (f : SysField) (ch vH vL : Byte) (s : State K) :
    (paramWrite (.sys f) ch vH vL s).ch = s.ch := by
  unfold paramWrite
  split
  · exact writeField_sys_ch f _ _ s
  · rfl

theorem paramWrite_ch_p (f : ChField) (ch vH vL : Byte) (s : State K) : (paramWrite (.ch f) ch vH vL s).p = s.p := by
  unfold paramWrite
  split
  · exact writeField_ch_p f _ _ s
  · rfl

/-- No command touches the port (notes/assumptions/7.md). -/
theorem Leaves.port {cfg : Config K} {i : Instr K} {s t : State K} (h : Leaves cfg s i t) : t.port = s.port := by
  cases h with
  | encSys | encChan | get => rfl
  | row | pu | sx | sxParamChange | sxBulkSystem | sxBulkChannel | proc | set | rst => simp

/-- Only PROC and RST write the runtime state. -/
theorem Leaves.rt {cfg : Config K} {i : Instr K} {s t : State K} (h : Leaves cfg s i t) :
    t.rt = s.rt ∨ i = .rst ∨ ∃ frames levels, i = .proc frames levels := by
  cases h with
  | proc frames levels => exact .inr (.inr ⟨frames, levels, rfl⟩)
  | rst => exact .inr (.inl rfl)
  | encSys | encChan | get => exact .inl rfl
  | row | pu | sx | sxParamChange | sxBulkSystem | sxBulkChannel | set => exact .inl (by simp)

/-- ENC, GET and PROC only read the registers. -/
theorem execFor_keeps_registers {cfg : Config K} {i : Instr K} {s t : State K} (h : execFor cfg i s = .next t)
    (hi : i = .encSys ∨ i = .encChan ∨ i = .get ∨ ∃ frames levels, i = .proc frames levels) :
    t.p = s.p ∧ t.ch = s.ch := by
  rcases hi with rfl | rfl | rfl | ⟨frames, levels, rfl⟩ <;> obtain rfl := Host.Outcome.next.inj h
  case inr.inr.inr => exact ⟨processCommand_p .., processCommand_ch ..⟩
  all_goals exact ⟨rfl, rfl⟩

end

/-- Settles O37: the parts of the state that each command leaves alone, and the two scopes of a row's write. -/
theorem everyRegisterHasItsWriters : Obligations.EveryRegisterHasItsWriters := by
  refine ⟨fun i s t h => ?parts, fun f ch vH vL s t h => ?system, fun f ch vH vL s t h => ?channel⟩
  case parts =>
    rw [← execFor_machine] at h
    have hleaves := leaves_of_execFor h
    exact ⟨hleaves.port, hleaves.rt, execFor_keeps_registers h⟩
  case system =>
    rw [exec_paramInstr] at h
    obtain rfl := Host.Outcome.next.inj h
    exact paramWrite_sys_ch f ch vH vL s
  case channel =>
    rw [exec_paramInstr] at h
    obtain rfl := Host.Outcome.next.inj h
    exact paramWrite_ch_p f ch vH vL s

end Sys2Proof.Machine
end

section
/-! The invariant of a step, and construction: O35, O34. -/

namespace Sys2Proof.Machine

section
variable {K : Type} [Field K] [LinearOrder K] {cfg : Config K} {s : State K}

/-- The port and the last result are no part of legality. -/
theorem StateLegal.of_eq {t : State K} (h : StateLegal cfg s) (hp : t.p = s.p) (hch : t.ch = s.ch) (hrt : t.rt = s.rt) :
    StateLegal cfg t :=
  ⟨hp ▸ h.params, hch ▸ h.banks, hrt ▸ h.runtime⟩

theorem StateLegal.answer (h : StateLegal cfg s) (r : Result K) : StateLegal cfg (answer r s) := h.of_eq rfl rfl rfl

end

section
variable {K : Type} [Field K] [LinearOrder K] [IsStrictOrderedRing K] [FloorRing K]

/-! ## Legal registers (10_state R71) -/

/-- A legal value in a system field keeps P legal. -/
theorem paramsLegal_writeSys {p : Params K} (h : paramsLegal p) {f : SysField} {x : Value K}
    (hx : valueLegal (sysTransform f) x) : paramsLegal (writeSys p f x) := fun g => by
  by_cases hg : g = f
  · subst hg
    rwa [readSys_writeSys_same p g (ofKind_of_legal hx)]
  · rw [readSys_writeSys_other p hg]
    exact h g

/-- A legal value in a channel field keeps its bank legal. -/
theorem channelLegal_writeCh {c : Channel K} (h : channelLegal c) {f : ChField} {x : Value K}
    (hx : valueLegal (chTransform f) x) : channelLegal (writeCh c f x) := fun g => by
  by_cases hg : g = f
  · subst hg
    rwa [readCh_writeCh_same c g (ofKind_of_legal hx)]
  · rw [readCh_writeCh_other c hg]
    exact h g

/-- What SET stores in P is legal (40_protocol R196). -/
theorem paramsLegal_legalParams (p : Params K) : paramsLegal (legalParams p) := fun f => by
  rw [readSys_legalParams]
  exact legalValue_legal (sysTransform_proper f) _

/-- What SET stores in a bank is legal (40_protocol R196). -/
theorem channelLegal_legalChannel (c : Channel K) : channelLegal (legalChannel c) := fun f => by
  rw [readCh_legalChannel]
  exact legalValue_legal (chTransform_proper f) _

/-- The reset values of 10_state R21 to R54 are legal. -/
theorem paramsLegal_resetParams : paramsLegal (resetParams : Params K) := fun f => by
  cases f <;> norm_num [valueLegal, sysTransform, readSys, resetParams]

/-- The reset values of 10_state R55 to R69 are legal. -/
theorem channelLegal_resetChannel : channelLegal (resetChannel : Channel K) := fun f => by
  cases f <;> norm_num [valueLegal, chTransform, readCh, resetChannel]

/-! ## Legal states: one rule per shared operation -/

variable {cfg : Config K} {s : State K}

theorem StateLegal.writeField (h : StateLegal cfg s) {f : ParamField} (c : Nat) {x : Value K}
    (hx : valueLegal (fieldTransform f) x) : StateLegal cfg (writeField f c x s) := by
  rcases writeField_cases f c x s with ⟨g, rfl, e⟩ | ⟨g, d, rfl, rfl, e⟩ | e <;> rw [e]
  case inl => exact ⟨paramsLegal_writeSys h.params hx, h.banks, h.runtime⟩
  case inr.inl =>
    refine ⟨h.params, fun c => ?_, h.runtime⟩
    rw [getElem_set_bank]
    split
    · exact channelLegal_writeCh (h.banks d) hx
    · exact h.banks c
  case inr.inr => exact h

/-- A field takes only decoded values of at most 14 bits, which are legal (30_encoding R140). -/
theorem StateLegal.writeDecoded (h : StateLegal cfg s) (f : ParamField) (c : Nat) {v : Nat} (hv : v ≤ 16383) :
    StateLegal cfg (Machine.writeField f c (decodeValue (fieldTransform f) v) s) :=
  h.writeField c (decodeValue_legal (fieldTransform_proper f) hv)

theorem StateLegal.paramWrite (h : StateLegal cfg s) (f : ParamField) (ch vH vL : Byte) :
    StateLegal cfg (paramWrite f ch vH vL s) := by
  cases ha : admissible ch vH vL with
  | false => rwa [paramWrite_of_not_admissible f ha]
  | true =>
    obtain ⟨hH, hL, -⟩ := (admissible_iff ch vH vL).1 ha
    rw [paramWrite_of_admissible f ha]
    exact h.writeDecoded f _ (by unfold value14; omega)

theorem StateLegal.parameterUpdate (h : StateLegal cfg s) (ch aH aL vH vL : Byte) :
    StateLegal cfg (parameterUpdate ch aH aL vH vL s) := by
  rcases parameterUpdate_cases ch aH aL vH vL s with ⟨f, -, -, e⟩ | ⟨-, e⟩ <;> rw [e]
  · exact h.paramWrite f ch vH vL
  · exact h

theorem StateLegal.applyWrites (h : StateLegal cfg s) {ws : List FieldWrite} (hws : ∀ w ∈ ws, w.value ≤ 16383) :
    StateLegal cfg (applyWrites ws s) := by
  induction ws generalizing s with
  | nil => exact h
  | cons w ws ih =>
    obtain ⟨hw, hws⟩ := List.forall_mem_cons.1 hws
    exact ih (h.writeDecoded w.field w.bank hw) hws

/-- A recognised system record carries 14 bits (40_protocol R188). -/
theorem systemRecord_value_le {bs : List Byte} {w : FieldWrite} (h : systemRecord bs = some w) : w.value ≤ 16383 := by
  rcases bs with _ | ⟨aH, _ | ⟨aL, _ | ⟨vH, _ | ⟨vL, rest⟩⟩⟩⟩ <;> try cases h
  obtain ⟨f, -, -, hH, hL, rfl⟩ := (systemRecord_cons_eq_some aH aL vH vL rest w).1 h
  show vH.toNat * 128 + vL.toNat ≤ 16383
  omega

/-- A recognised per-channel record carries 14 bits (40_protocol R189). -/
theorem channelRecord_value_le {bs : List Byte} {w : FieldWrite} (h : channelRecord bs = some w) : w.value ≤ 16383 := by
  rcases bs with _ | ⟨c, _ | ⟨aH, _ | ⟨aL, _ | ⟨vH, _ | ⟨vL, rest⟩⟩⟩⟩⟩ <;> try cases h
  obtain ⟨f, -, -, -, hH, hL, rfl⟩ := (channelRecord_cons_eq_some c aH aL vH vL rest w).1 h
  show vH.toNat * 128 + vL.toNat ≤ 16383
  omega

theorem systemWrites_value_le (records : List Byte) : ∀ w ∈ systemWrites records, w.value ≤ 16383 := fun w hw => by
  obtain ⟨bs, hbs⟩ := scanRecords_mem systemRecord 4 0 records w hw
  exact systemRecord_value_le hbs

theorem channelWrites_value_le (records : List Byte) : ∀ w ∈ channelWrites records, w.value ≤ 16383 := fun w hw => by
  obtain ⟨bs, hbs⟩ := scanRecords_mem channelRecord 5 0 records w hw
  exact channelRecord_value_le hbs

theorem StateLegal.sysEx (h : StateLegal cfg s) (vendor body : List Byte) : StateLegal cfg (sysEx cfg vendor body s) := by
  rcases sysEx_cases cfg vendor body s with e | ⟨aH, aL, value, e⟩ | ⟨records, e⟩ | ⟨records, e⟩ <;> rw [e]
  · exact h
  · exact h.parameterUpdate 0xFF aH aL value 0x00
  · exact h.applyWrites (systemWrites_value_le records)
  · exact h.applyWrites (channelWrites_value_le records)

theorem StateLegal.storeSnapshot (h : StateLegal cfg s) (snap : Snapshot K) :
    StateLegal cfg (storeSnapshot (legalSnapshot snap) s) := by
  refine ⟨paramsLegal_legalParams snap.p, fun c => ?_, h.runtime⟩
  show channelLegal (Vector.ofFn _)[c]
  rw [getElem_ofFn_fin]
  exact channelLegal_legalChannel _

/-- A frame of PROC keeps the runtime state legal, and PROC writes no register. -/
theorem StateLegal.processCommand (h : StateLegal cfg s) (hn : cfg.num.IsExact) (hc : Capacities cfg)
    (frames : List (Stereo K)) (levels : List K) : StateLegal cfg (processCommand cfg frames levels s) := by
  rcases processCommand_cases cfg frames levels s with ⟨code, -, e⟩ | ⟨-, e⟩ <;> rw [e]
  · exact h.answer (.error code)
  · exact ⟨h.params, h.banks, runtimeLegal_processFrame hn hc s.p s.ch frames levels h.runtime⟩

/-- A block that can be built begins in a legal state (70_reset_and_hazards R400, R401). -/
theorem stateLegal_resetWith (hv : cfg.valid = true) : StateLegal cfg (State.resetWith cfg) := by
  obtain ⟨-, -, -, -, -, hphase⟩ := (valid_iff cfg).1 hv
  refine ⟨paramsLegal_resetParams, fun c => ?_, runtimeLegal_reset (capacities_of_valid hv) hphase⟩
  show channelLegal (Vector.replicate 16 resetChannel)[c]
  rw [Fin.getElem_fin, Vector.getElem_replicate]
  exact channelLegal_resetChannel

/-- RST leaves a legal state, whatever the state before was. -/
theorem stateLegal_resetBlock (hv : cfg.valid = true) (s : State K) : StateLegal cfg (resetBlock cfg s) :=
  (stateLegal_resetWith hv).of_eq rfl rfl rfl

/-! ## Every command and every step -/

/-- Every command keeps the state legal, command by command. -/
theorem Leaves.stateLegal {i : Instr K} {t : State K} (ht : Leaves cfg s i t) (hn : cfg.num.IsExact)
    (hv : cfg.valid = true) (h : StateLegal cfg s) : StateLegal cfg t := by
  cases ht with
  | row f ch vH vL => exact (h.paramWrite f ch vH vL).answer _
  | pu ch aH aL vH vL => exact (h.parameterUpdate ch aH aL vH vL).answer _
  | sx vendor body => exact (h.sysEx vendor body).answer _
  | sxParamChange dev aH aL value tail => exact (h.parameterUpdate 0xFF aH aL value 0x00).answer _
  | sxBulkSystem dev records => exact (h.applyWrites (systemWrites_value_le records)).answer _
  | sxBulkChannel dev records => exact (h.applyWrites (channelWrites_value_le records)).answer _
  | encSys => exact h.answer _
  | encChan => exact h.answer _
  | proc frames levels => exact h.processCommand hn (capacities_of_valid hv) frames levels
  | get => exact h.answer _
  | set snap => exact (h.storeSnapshot snap).answer _
  | rst => exact (stateLegal_resetBlock hv s).answer _

/-- Every step keeps the state legal: a performed record, a refused one, and no whole record. -/
theorem stateLegal_stepFor (hn : cfg.num.IsExact) (hv : cfg.valid = true) (h : StateLegal cfg s) {t : State K}
    (ht : stepFor cfg s = .next t) : StateLegal cfg t := by
  rcases stepFor_cases cfg s with ⟨i, rest, -, e⟩ | ⟨rest, -, e⟩ | ⟨-, e⟩ | ⟨-, e⟩ <;> rw [e] at ht
  · have hfetched : StateLegal cfg { s with port := rest } := h.of_eq rfl rfl rfl
    exact (leaves_of_execFor ht).stateLegal hn hv hfetched
  · obtain rfl := Host.Outcome.next.inj ht
    exact h.of_eq rfl rfl rfl
  · obtain rfl := Host.Outcome.next.inj ht
    exact h
  · cases ht

end

/-- Settles O35: `stateLegal_stepFor`, of which the machine is the block under the third column of R7. -/
theorem everyStepKeepsTheStateLegal : Obligations.EveryStepKeepsTheStateLegal :=
  ⟨fun s _ h ht => stateLegal_stepFor isExact_machine valid_machine h ((stepFor_machine s).trans ht),
    fun _ _ _ _ _ _ _ _ hn hv h ht => stateLegal_stepFor hn hv h ht⟩

/-- Settles O34: construction checks the constraints, and the reset state of a block so built is legal; the three blocks
meet the constraints by `valid_machine`, `valid_reference` and `valid_binary64`. -/
theorem resetStateIsLegal : Obligations.ResetStateIsLegal := by
  refine ⟨fun K _ _ _ _ cfg s => ?construction, fun K _ _ _ _ cfg s h => ?legal, ?machine,
    stateLegal_resetWith valid_machine, fun z ext => ⟨construct_reference z ext, ?reference⟩, construct_binary64⟩
  case construction => rw [construct_eq_some, valid_iff]
  case legal =>
    obtain ⟨hv, rfl⟩ := construct_eq_some.1 h
    exact stateLegal_resetWith hv
  case machine => exact construct_eq_some.2 ⟨valid_machine, rfl⟩
  case reference => exact stateLegal_resetWith (valid_reference z ext)

end Sys2Proof.Machine
end

section
/-! The followers of the slots, and what each system effect reads and writes: O36, O46. -/

namespace Sys2Proof.Machine

section
variable {K : Type} [Field K] [LinearOrder K]

/-! ## The decay factor and the ramp coefficient (46_dynamics R351, R356) -/

/-- What the followers need of the parameters: frames take time, and exp maps the negative numbers into [0, 1]. -/
structure DecayBounded (cfg : Config K) : Prop where
  fs_pos : 0 < cfg.fs
  exp_mem : ∀ x : K, x < 0 → 0 ≤ cfg.num.exp x ∧ cfg.num.exp x ≤ 1

variable [IsStrictOrderedRing K] {cfg : Config K}

theorem decayFactor_mem (hd : DecayBounded cfg) {t : K} (ht : 0 < t) :
    0 ≤ decayFactor cfg t ∧ decayFactor cfg t ≤ 1 := by
  rw [decayFactor_of_pos hd.fs_pos ht]
  exact hd.exp_mem _ (div_neg_of_neg_of_pos (by norm_num) (mul_pos ht hd.fs_pos))

theorem rampCoef_mem (hd : DecayBounded cfg) {t : K} (ht : 0 < t) : 0 ≤ rampCoef cfg t ∧ rampCoef cfg t ≤ 1 := by
  obtain ⟨h0, h1⟩ := decayFactor_mem hd ht
  rw [rampCoef_of_pos cfg ht]
  exact ⟨sub_nonneg.2 h1, sub_le_self 1 h0⟩

theorem levelOf_nonneg (x : Stereo K) : 0 ≤ levelOf x := (abs_nonneg x.l).trans (le_max_left _ _)

variable [FloorRing K]

/-! ## One slot -/

/-- An envelope moves between its old value and the level, which are not negative (46_dynamics R352). -/
theorem compressorEnv_nonneg (hd : DecayBounded cfg) (x : Stereo K) {p : GenericParams K} (hp3 : 0 ≤ p.p3)
    (hp4 : 0 ≤ p.p4) {env : K} (h : 0 ≤ env) : 0 ≤ compressorEnv cfg x p env := by
  obtain ⟨ha0, ha1⟩ := rampCoef_mem hd (t := 1 / 10000 + 999 / 10000 * p.p3) (by positivity)
  obtain ⟨hr0, hr1⟩ := rampCoef_mem hd (t := 1 / 100 + 99 / 100 * p.p4) (by positivity)
  exact (le_min h (levelOf_nonneg x)).trans (follow_mem ha0 ha1 hr0 hr1).1

/-- A gate's gain becomes 1, stays, or is scaled by a factor in [0, 1] (46_dynamics R356). -/
theorem procGate_gain_mem (hd : DecayBounded cfg) (x : Stereo K) {p : GenericParams K} (hp3 : 0 ≤ p.p3)
    {st : GateState K} (h0 : 0 ≤ st.g) (h1 : st.g ≤ 1) :
    0 ≤ (procGate cfg x p st).2.g ∧ (procGate cfg x p st).2.g ≤ 1 := by
  obtain ⟨hc0, hc1⟩ : 0 ≤ gateDecay cfg p.p3 ∧ gateDecay cfg p.p3 ≤ 1 := decayFactor_mem hd (gateTau_pos hp3)
  rcases procGate_cases cfg x p st with ⟨-, e⟩ | ⟨-, -, e⟩ | ⟨-, -, e⟩ <;> rw [e]
  · exact ⟨zero_le_one, le_rfl⟩
  · exact ⟨h0, h1⟩
  · exact ⟨mul_nonneg h0 hc0, mul_le_one₀ h1 hc0 hc1⟩

/-- Every processor keeps the followers of its slot in range. -/
theorem followersLegal_runProcessor (hd : DecayBounded cfg) (t : Int) (x : Stereo K) {p : GenericParams K}
    (hp3 : 0 ≤ p.p3) (hp4 : 0 ≤ p.p4) {slot : Slot K} (h : followersLegal slot) :
    followersLegal (runProcessor cfg t x p slot).2 := by
  obtain ⟨henv, hg0, hg1⟩ := h
  rcases runProcessor_cases cfg t x p slot with e | ⟨-, e⟩ | ⟨-, e⟩ | ⟨-, e⟩ | ⟨-, _, e⟩ <;> rw [e]
  · exact ⟨henv, hg0, hg1⟩
  · exact ⟨henv, hg0, hg1⟩
  · exact ⟨compressorEnv_nonneg hd x hp3 hp4 henv, hg0, hg1⟩
  · exact ⟨henv, procGate_gain_mem hd x hp3 hg0 hg1⟩
  · exact ⟨henv, hg0, hg1⟩

theorem followersLegal_fxVariation (hd : DecayBounded cfg) {p : Params K} (hp : paramsLegal p) {slot : Slot K}
    (h : followersLegal slot) (x : Stereo K) : followersLegal (fxVariation cfg p.variation slot x).2 := by
  obtain ⟨hp3, -⟩ : 0 ≤ p.variation.param3 ∧ p.variation.param3 ≤ 1 := hp .variationParam3
  obtain ⟨hp4, -⟩ : 0 ≤ p.variation.param4 ∧ p.variation.param4 ≤ 1 := hp .variationParam4
  unfold fxVariation
  split
  · exact h
  · exact followersLegal_runProcessor hd _ _ hp3 hp4 h

theorem followersLegal_channelInsertion (hd : DecayBounded cfg) {ch : Vector (Channel K) 16}
    {slots : Vector (Slot K) 16} (frames : List (Stereo K)) (c : Fin 16) (hch : channelLegal ch[c])
    (h : followersLegal slots[c]) : followersLegal (channelInsertion cfg ch slots frames c).2 := by
  obtain ⟨hp3, -⟩ : 0 ≤ ch[c].insParam3 ∧ ch[c].insParam3 ≤ 1 := hch .insParam3
  obtain ⟨hp4, -⟩ : 0 ≤ ch[c].insParam4 ∧ ch[c].insParam4 ≤ 1 := hch .insParam4
  unfold channelInsertion insertionStage
  split_ifs
  · exact followersLegal_runProcessor hd _ _ hp3 hp4 h
  · exact h
  · exact h

/-! ## The variation slot along Route -/

/-- Only the variation touches the variation slot. -/
theorem followersLegal_effectStep (hd : DecayBounded cfg) {p : Params K} (hp : paramsLegal p) (e : Effect)
    (x : Stereo K) {rt : Runtime K} (h : followersLegal rt.variation) :
    followersLegal (effectStep cfg p e x rt).2.variation := by
  cases e with
  | reverb | chorus => exact h
  | variation => exact followersLegal_fxVariation hd hp h x

theorem followersLegal_systemStage (hd : DecayBounded cfg) {p : Params K} (hp : paramsLegal p)
    (ch : Vector (Channel K) 16) (bus : K) {rt : Runtime K} (h : followersLegal rt.variation) :
    followersLegal (systemStage cfg p ch bus rt).2.variation := by
  unfold systemStage
  split
  · have hstep := fun e x rt => followersLegal_effectStep hd hp e x (rt := rt)
    exact hstep _ _ _ (hstep _ _ _ (hstep _ _ _ h))
  · exact h

/-- A frame keeps the followers of every slot in range. -/
theorem allFollowersLegal_processFrame (hd : DecayBounded cfg) {p : Params K} (hp : paramsLegal p)
    {ch : Vector (Channel K) 16} (hch : ∀ c : Fin 16, channelLegal ch[c]) (frames : List (Stereo K)) (levels : List K)
    {rt : Runtime K} (h : allFollowersLegal rt) : allFollowersLegal (processFrame cfg p ch frames levels rt).rt := by
  obtain ⟨hvar, hins⟩ := h
  refine ⟨followersLegal_systemStage hd hp ch _ hvar, fun c => ?_⟩
  rw [processFrame_insertion, getElem_ofFn_fin]
  exact followersLegal_channelInsertion hd frames c (hch c) (hins c)

end

/-- The real exponential maps the negative numbers into [0, 1]. -/
theorem decayBounded_reference (z : ℝ → ℝ) (ext : ExtProcs ℝ) : DecayBounded (Config.reference z ext) where
  fs_pos := reference_fs_pos z ext
  exp_mem x hx := ⟨Real.exp_nonneg x, Real.exp_le_one_iff.2 hx.le⟩

/-- Settles O36: `allFollowersLegal_processFrame`, whose hypotheses the reference block meets. -/
theorem followersStayInRange : Obligations.FollowersStayInRange :=
  ⟨fun _ _ _ _ _ _ _ _ frames levels _ hfs hexp hp hch h =>
      allFollowersLegal_processFrame ⟨hfs, hexp⟩ hp hch frames levels h,
    fun z ext _ _ frames levels _ hp hch h =>
      allFollowersLegal_processFrame (decayBounded_reference z ext) hp hch frames levels h⟩

/-! ## The system effects (10_state R82, 42_routing_eq R245) -/

section
variable {K : Type} [Zero K] [One K] [Add K] [Sub K] [Mul K] [Div K] [Neg K] [NatCast K] [IntCast K] [Max K] [Min K]
  [LT K] [DecidableLT K] [DecidableEq K] (cfg : Config K) (p : Params K) (x : Stereo K) (rt : Runtime K)

theorem effectStep_reverb : effectStep cfg p .reverb x rt =
    ((fxReverb cfg p.reverb rt.rv x).1, { rt with rv := (fxReverb cfg p.reverb rt.rv x).2 }) := rfl

theorem effectStep_chorus : effectStep cfg p .chorus x rt =
    ((fxChorus cfg p.chorus rt.chorus x).1, { rt with chorus := (fxChorus cfg p.chorus rt.chorus x).2 }) := rfl

theorem effectStep_variation : effectStep cfg p .variation x rt =
    ((fxVariation cfg p.variation rt.variation x).1,
      { rt with variation := (fxVariation cfg p.variation rt.variation x).2 }) := rfl

end

/-- Settles O46: an effect is a function of its own state, and its next state is put back in that state's place. -/
theorem effectsKeepToTheirOwnState : Obligations.EffectsKeepToTheirOwnState := by
  intro K _ _ _ _ _ _ _ _ _ _ _ _ _ _ cfg p x rt rt'
  simp only [effectStep_reverb, effectStep_chorus, effectStep_variation, true_and]
  refine ⟨fun h => ?_, fun h => ?_, fun h => ?_⟩ <;> rw [h] <;> exact ⟨rfl, rfl⟩

end Sys2Proof.Machine
end

section
/-! Ring memories and delay reads: O38, O39, O40. -/

namespace Sys2Proof.Machine

/-! ## The element an index names (20_memory R101) -/

theorem ringIndex_add_cap (cap : Nat) (i : Int) : ringIndex cap (i + cap) = ringIndex cap i := by
  rw [ringIndex, ringIndex, Int.add_emod_right]

/-- One frame on, an element lies one further behind the pointer. -/
theorem ringIndex_advance_sub_succ (cap w len : Nat) :
    ringIndex cap ((advance cap w : Nat) - ((len + 1 : Nat) : Int)) = ringIndex cap ((w : Int) - len) := by
  simp only [ringIndex, advance, Nat.cast_add, Nat.cast_one, Int.natCast_emod, Int.emod_sub_emod,
    add_sub_add_right_eq_sub]

/-- A delay below the capacity other than 0 names another element than the one at the pointer. -/
theorem ringIndex_sub_eq_self_iff {cap len : Nat} (h : len < cap) (w : Int) :
    ringIndex cap (w - len) = ringIndex cap w ↔ len = 0 := by
  rw [ringIndex_eq_iff (by omega), Int.emod_eq_emod_iff_emod_sub_eq_zero, sub_sub_cancel_left,
    ← Int.dvd_iff_emod_eq_zero, dvd_neg, Int.natCast_dvd_natCast]
  exact ⟨fun hdvd => Nat.eq_zero_of_dvd_of_lt hdvd h, fun h0 => h0 ▸ dvd_zero cap⟩

/-! ## Delays across frames (20_memory R104) -/

section
variable {K : Type} [Zero K]

theorem delayRead_eq_ringRead (cap : Nat) (b : RingMemory K) (w len : Nat) :
    delayRead cap b w len = ringRead cap b ((w : Int) - len) := rfl

variable [One K] [Add K] [Sub K] [Mul K] [Div K] [Neg K] [NatCast K] [IntCast K] [Max K] [Min K] [LT K] [DecidableLT K]
  [DecidableEq K]

/-- A frame makes the sample it writes one frame old, and every delayed sample one frame older. -/
theorem delayRead_pushLine {cap len : Nat} {line : Line K} (hwf : ringWf cap line.buf = true) (h : len < cap) (v : K) :
    delayRead cap (pushLine cap line v).buf (pushLine cap line v).w (len + 1) =
      if len = 0 then v else delayRead cap line.buf line.w len := by
  calc delayRead cap (pushLine cap line v).buf (pushLine cap line v).w (len + 1)
    _ = ringRead cap (ringWrite cap line.buf line.w v) ((line.w : Int) - len) :=
      congrArg (ringGet _) (ringIndex_advance_sub_succ cap line.w len)
    _ = if len = 0 then v else delayRead cap line.buf line.w len := by
      rw [ringRead_ringWrite hwf, delayRead_eq_ringRead]
      simp only [ringIndex_sub_eq_self_iff h]

/-- Frames later, a sample still in the ring is as many frames older. -/
theorem delayRead_foldl_pushLine {cap len : Nat} {line : Line K} (later : List K) (hwf : ringWf cap line.buf = true)
    (hpos : 0 < len) (h : len + later.length ≤ cap) :
    delayRead cap (later.foldl (pushLine cap) line).buf (later.foldl (pushLine cap) line).w (len + later.length) =
      delayRead cap line.buf line.w len := by
  induction later generalizing line len with
  | nil => rfl
  | cons x later ih =>
    rw [List.length_cons] at h ⊢
    have hage : len + (later.length + 1) = len + 1 + later.length := by omega
    rw [List.foldl_cons, hage, ih (pushLine_wf (by omega) hwf x) (by omega) (by omega),
      delayRead_pushLine hwf (by omega), if_neg hpos.ne']

end

/-- Settles O38: two indices name one element exactly when they agree modulo the capacity (`ringIndex_eq_iff`). -/
theorem ringReadsWhatWasWritten : Obligations.RingReadsWhatWasWritten := by
  intro K _ _ _ _ _ _ _ _ _ _ _ _ _ _ cap b i j v hcap hwf
  refine ⟨?_, congrArg (ringGet b) (ringIndex_add_cap cap i), ringWrite_wf hcap hwf i v, fun w => ⟨rfl, advance_lt hcap w⟩⟩
  rw [ringRead_ringWrite hwf]
  simp only [ringIndex_eq_iff hcap]

/-- Settles O40: the sample is one frame old after its own frame, and ages by one in each later one. -/
theorem delayedSampleComesBack : Obligations.DelayedSampleComesBack := by
  intro K _ _ _ _ _ _ _ _ _ _ _ _ _ _
  refine ⟨delayRead_eq_ringRead, fun cap line v later hwf hw hlater => ?_⟩
  have hcap : 0 < cap := by omega
  rw [List.foldl_cons, Nat.add_comm, delayRead_foldl_pushLine later (pushLine_wf hcap hwf v) one_pos (by omega)]
  exact (delayRead_pushLine hwf hcap v).trans (if_pos rfl)

/-! ## Fractional delays (20_memory R103) -/

section
variable {K : Type} [LinearOrder K]

theorem clampScalar_of_le_lo {x lo hi : K} (hx : x ≤ lo) (h : lo ≤ hi) : clampScalar x lo hi = lo := by
  rw [clampScalar, max_eq_left hx, min_eq_right h]

theorem clampScalar_of_hi_le {x lo hi : K} (hx : hi ≤ x) : clampScalar x lo hi = hi :=
  min_eq_left (hx.trans (le_max_right lo x))

variable [Field K] [IsStrictOrderedRing K] [FloorRing K]

/-- A delay that clamps to an integer reads one sample. -/
theorem fracRead_of_clamp_eq_int {n : Numerics K} (hn : n.IsExact) {cap : Nat} {b : RingMemory K} {w : Nat} {d : K}
    {i : Int} (h : clampScalar d 1 ((cap : K) - 2) = i) : fracRead n cap b w d = ringRead cap b (w - i) := by
  have hsplit : clampScalar d 1 ((cap : K) - 2) = i + 0 := h.trans (add_zero _).symm
  rw [fracRead_eq hn hsplit le_rfl one_pos, sub_zero, one_mul, zero_mul, add_zero]

end

/-- Settles O39: a delay in range is its own clamp, and every other one clamps to an end of the range, which is an integer. -/
theorem fractionalReadInterpolates : Obligations.FractionalReadInterpolates := by
  intro K _ _ _ _ n cap b w hn hcap
  have hrange : (1 : K) ≤ (cap : K) - 2 := by
    have : (3 : K) ≤ cap := by exact_mod_cast hcap
    linarith
  refine ⟨fun i f hi h0 h1 htop => ?between, fun i hi htop => ?integer, fun d hd => ?below, fun d hd => ?above⟩
  case between =>
    have hlow : (1 : K) ≤ i := by exact_mod_cast hi
    have hclamp : clampScalar (i + f) 1 ((cap : K) - 2) = (i : Int) + f := by
      rw [clampScalar_of_mem (by linarith) htop, Int.cast_natCast]
    exact fracRead_eq hn hclamp h0 h1
  case integer =>
    have hlow : (1 : K) ≤ i := by exact_mod_cast hi
    have hhigh : (i : K) + 2 ≤ cap := by exact_mod_cast htop
    exact fracRead_of_clamp_eq_int hn (i := i) (by rw [clampScalar_of_mem hlow (by linarith), Int.cast_natCast])
  case below =>
    exact fracRead_of_clamp_eq_int hn (by rw [clampScalar_of_le_lo hd hrange, Int.cast_one])
  case above =>
    exact fracRead_of_clamp_eq_int hn (by rw [clampScalar_of_hi_le hd]; push_cast; rfl)

end Sys2Proof.Machine
end

section
/-! The decoder and the encoder (30_encoding R130 to R138): O1, O2, O3, O4. -/

namespace Sys2Proof

section
variable {K : Type}

/-! ## Records that decode (30_encoding R132 to R138) -/

theorem puInstr_of_descriptor {aH aL : Byte} {f : Machine.ParamField} (h : Machine.descriptor aH aL = some f)
    (ch vH vL : Byte) : puInstr ch aH aL vH vL = (paramInstr f ch vH vL : Instr K) := by
  simp [puInstr, h]

/-- The record of a PU, whatever follows it. -/
theorem decodeFor_encodePu (cfg : Config K) (ch aH aL vH vL : Byte) (rest : List (PortItem K)) :
    decodeFor cfg (encodePu ch aH aL vH vL ++ rest) = .instr (puInstr ch aH aL vH vL) rest := rfl

/-- The record of a row of the descriptor table. -/
theorem decodeFor_encodeParam (cfg : Config K) (f : Machine.ParamField) (ch vH vL : Byte) (rest : List (PortItem K)) :
    decodeFor cfg (encodeParam f ch vH vL ++ rest) = .instr (paramInstr f ch vH vL) rest := by
  rw [encodeParam, decodeFor_encodePu, puInstr_of_descriptor (Machine.descriptor_fieldAddress f)]

theorem sxInstrFor_paramChange (cfg : Config K) (dev aH aL value : Byte) (tail : List Byte) :
    sxInstrFor cfg [cfg.vendorId] (dev :: cfg.pcSubstatus :: aH :: aL :: value :: tail) =
      .sxParamChange dev aH aL value tail := by
  simp [sxInstrFor]

theorem sxInstrFor_bulkSystem {cfg : Config K} (h : cfg.pcSubstatus ≠ 0#8) (dev : Byte) (records : List Byte) :
    sxInstrFor cfg [cfg.vendorId] (dev :: 0x00 :: 0x03 :: records) = .sxBulkSystem dev records := by
  simp [sxInstrFor, h.symm]

theorem sxInstrFor_bulkChannel {cfg : Config K} (h : cfg.pcSubstatus ≠ 0#8) (dev : Byte) (records : List Byte) :
    sxInstrFor cfg [cfg.vendorId] (dev :: 0x00 :: 0x04 :: records) = .sxBulkChannel dev records := by
  simp [sxInstrFor, h.symm]

/-- The two count bytes of a PROC record carry its lengths (30_encoding R135). -/
theorem decodeFor_proc (cfg : Config K) {frames : List (Stereo K)} {levels : List K} (hf : frames.length < 256)
    (hl : levels.length < 256) (rest : List (PortItem K)) :
    decodeFor cfg (encodeFor cfg (.proc frames levels) ++ rest) = .instr (.proc frames levels) rest := by
  have hnF : (BitVec.ofNat 8 frames.length).toNat = frames.length := Nat.mod_eq_of_lt hf
  have hnLv : (BitVec.ofNat 8 levels.length).toNat = levels.length := Nat.mod_eq_of_lt hl
  simp [decodeFor, encodeFor, takeRecord, takeProc, hnF, hnLv, -BitVec.toNat_ofNat]

/-- Decoding inverts encoding: the named SysEx layouts and the general PU and SX are told apart by well-formedness, and every
further instruction is a row of the table. -/
theorem decodeFor_encodeFor {cfg : Config K} {i : Instr K} (h : i.wellFormedFor cfg = true) (rest : List (PortItem K)) :
    decodeFor cfg (encodeFor cfg i ++ rest) = .instr i rest := by
  cases i with
  | pu ch aH aL vH vL =>
    have hnone : Machine.descriptor aH aL = none := Option.isNone_iff_eq_none.1 h
    rw [encodeFor, decodeFor_encodePu, puInstr_none hnone]
  | sx vendor body =>
    simp only [Instr.wellFormedFor, Bool.and_eq_true, decide_eq_true_eq, Bool.not_eq_true'] at h
    obtain ⟨⟨hv, hb⟩, hnamed⟩ := h
    rw [encodeFor, takeSx_encode cfg hv hb, sxInstrFor_of_not_named hnamed]
  | sxParamChange dev aH aL value tail =>
    have hb := of_decide_eq_true h
    rw [encodeFor, takeSx_encode cfg (by simp) (by simpa using hb)]
    exact congrArg (Decoded.instr · rest) (sxInstrFor_paramChange cfg dev aH aL value tail)
  | sxBulkSystem dev records =>
    simp only [Instr.wellFormedFor, Bool.and_eq_true, bne_iff_ne, decide_eq_true_eq] at h
    obtain ⟨hsub, hb⟩ := h
    rw [encodeFor, takeSx_encode cfg (by simp) (by simpa using hb)]
    exact congrArg (Decoded.instr · rest) (sxInstrFor_bulkSystem hsub dev records)
  | sxBulkChannel dev records =>
    simp only [Instr.wellFormedFor, Bool.and_eq_true, bne_iff_ne, decide_eq_true_eq] at h
    obtain ⟨hsub, hb⟩ := h
    rw [encodeFor, takeSx_encode cfg (by simp) (by simpa using hb)]
    exact congrArg (Decoded.instr · rest) (sxInstrFor_bulkChannel hsub dev records)
  | proc frames levels =>
    simp only [Instr.wellFormedFor, Bool.and_eq_true, decide_eq_true_eq] at h
    obtain ⟨hf, hl⟩ := h
    exact decodeFor_proc cfg hf hl rest
  | encSys => rfl
  | encChan => rfl
  | get => rfl
  | set snap => rfl
  | rst => rfl
  | _ => exact decodeFor_encodeParam cfg _ _ _ _ rest

/-! ## What a decoded record was (30_encoding R131 to R138) -/

/-- An instruction is read only behind an opcode byte. -/
theorem decodeFor_eq_instr {cfg : Config K} {items rest : List (PortItem K)} {i : Instr K} :
    decodeFor cfg items = .instr i rest ↔
      ∃ op tail, items = .byte op :: tail ∧ takeRecord cfg op tail = .got (some i) rest := by
  have hgot : decodeFor cfg items = .instr i rest ↔
      thenTake (takeByte items) (takeRecord cfg) = .got (some i) rest := by
    unfold decodeFor
    split <;> simp_all
  rw [hgot, thenTake_eq_got]
  simp only [takeByte_eq_got]

/-- The seven formats (30_encoding R131). -/
theorem takeRecord_cases {cfg : Config K} {op : Byte} {items rest : List (PortItem K)} {i : Instr K}
    (h : takeRecord cfg op items = .got (some i) rest) :
    (op = 0x01 ∧ takePu items = .got (some i) rest) ∨ (op = 0x02 ∧ takeSx cfg items = .got (some i) rest) ∨
    (op = 0x03 ∧ takeEnc items = .got (some i) rest) ∨ (op = 0x04 ∧ takeProc items = .got (some i) rest) ∨
    (op = 0x05 ∧ i = .get ∧ items = rest) ∨ (op = 0x06 ∧ takeSet items = .got (some i) rest) ∨
    (op = 0x07 ∧ i = .rst ∧ items = rest) := by
  unfold takeRecord at h
  repeat' split at h
  all_goals simp_all

/-- CMD-PU (30_encoding R132): five bytes. -/
theorem puInstr_of_takePu {items rest : List (PortItem K)} {i : Instr K} (h : takePu items = .got (some i) rest) :
    ∃ ch aH aL vH vL, items = byteItems [ch, aH, aL, vH, vL] ++ rest ∧ i = puInstr ch aH aL vH vL := by
  simp only [takePu, thenTake_eq_got, takeByte_eq_got] at h
  obtain ⟨ch, _, rfl, aH, _, rfl, aL, _, rfl, vH, _, rfl, vL, _, rfl, h⟩ := h
  cases h
  exact ⟨ch, aH, aL, vH, vL, rfl, rfl⟩

/-- CMD-SX (30_encoding R133): what was read is the record of its two parts, and both lengths fit their count bytes. -/
theorem encodeSx_of_takeSx {cfg : Config K} {items rest : List (PortItem K)} {i : Instr K}
    (h : takeSx cfg items = .got (some i) rest) :
    ∃ vendor body, vendor.length < 256 ∧ body.length < 65536 ∧ .byte 0x02 :: items = encodeSx vendor body ++ rest ∧
      i = sxInstrFor cfg vendor body := by
  simp only [takeSx, thenTake_eq_got, takeByte_eq_got, takeBytes_eq_got] at h
  obtain ⟨nV, _, rfl, nBHigh, _, rfl, nBLow, _, rfl, vendor, _, ⟨hV, rfl⟩, body, _, ⟨hB, rfl⟩, h⟩ := h
  cases h
  have hlow := nBLow.isLt
  have hhigh := nBHigh.isLt
  have hnV : BitVec.ofNat 8 vendor.length = nV := by rw [hV, BitVec.ofNat_toNat, BitVec.setWidth_eq]
  have hnBHigh : BitVec.ofNat 8 (body.length / 256) = nBHigh := by
    rw [show body.length / 256 = nBHigh.toNat by omega, BitVec.ofNat_toNat, BitVec.setWidth_eq]
  have hnBLow : BitVec.ofNat 8 (body.length % 256) = nBLow := by
    rw [show body.length % 256 = nBLow.toNat by omega, BitVec.ofNat_toNat, BitVec.setWidth_eq]
  refine ⟨vendor, body, hV ▸ nV.isLt, by omega, ?_, rfl⟩
  simp [encodeSx, hnV, hnBHigh, hnBLow]

/-- CMD-ENC (30_encoding R134): a scope byte of 0x00 or 0x01. -/
theorem enc_of_takeEnc {items rest : List (PortItem K)} {i : Instr K} (h : takeEnc items = .got (some i) rest) :
    (items = .byte 0x00 :: rest ∧ i = .encSys) ∨ (items = .byte 0x01 :: rest ∧ i = .encChan) := by
  simp only [takeEnc, thenTake_eq_got, takeByte_eq_got] at h
  obtain ⟨scope, _, rfl, h⟩ := h
  split at h
  · next h0 => cases h; exact .inl ⟨by rw [h0], rfl⟩
  · split at h
    · next h1 => cases h; exact .inr ⟨by rw [h1], rfl⟩
    · cases h

/-- CMD-PROC (30_encoding R135): both counts fit a byte. -/
theorem proc_of_takeProc {items rest : List (PortItem K)} {i : Instr K} (h : takeProc items = .got (some i) rest) :
    ∃ frames levels, frames.length < 256 ∧ levels.length < 256 ∧ i = .proc frames levels ∧
      items = .byte (BitVec.ofNat 8 frames.length) :: .byte (BitVec.ofNat 8 levels.length) ::
        (frameItems frames ++ (levels.map .real ++ rest)) := by
  simp only [takeProc, thenTake_eq_got, takeByte_eq_got, takeFrames_eq_got, takeReals_eq_got] at h
  obtain ⟨nF, _, rfl, nLv, _, rfl, frames, _, ⟨hF, rfl⟩, levels, _, ⟨hLv, rfl⟩, h⟩ := h
  cases h
  refine ⟨frames, levels, hF ▸ nF.isLt, hLv ▸ nLv.isLt, rfl, ?_⟩
  rw [hF, hLv, BitVec.ofNat_toNat, BitVec.ofNat_toNat, BitVec.setWidth_eq, BitVec.setWidth_eq]

/-- CMD-SET (30_encoding R136). -/
theorem set_of_takeSet {items rest : List (PortItem K)} {i : Instr K} (h : takeSet items = .got (some i) rest) :
    ∃ snap, items = .snapshot snap :: rest ∧ i = .set snap := by
  simp only [takeSet, thenTake_eq_got, takeSnapshot_eq_got] at h
  obtain ⟨snap, _, rfl, h⟩ := h
  cases h
  exact ⟨snap, rfl, rfl⟩

/-! ## The instruction read is well-formed and is written as it was read -/

theorem wellFormedFor_puInstr (cfg : Config K) (ch aH aL vH vL : Byte) :
    (puInstr ch aH aL vH vL : Instr K).wellFormedFor cfg = true := by
  cases hd : Machine.descriptor aH aL with
  | none => rw [puInstr_none hd]; exact Option.isNone_iff_eq_none.2 hd
  | some f =>
    rw [puInstr_of_descriptor hd, wellFormedFor_paramInstr]

theorem encodeFor_puInstr (cfg : Config K) (ch aH aL vH vL : Byte) :
    encodeFor cfg (puInstr ch aH aL vH vL) = encodePu ch aH aL vH vL := by
  cases hd : Machine.descriptor aH aL with
  | none => rw [puInstr_none hd]; rfl
  | some f =>
    obtain ⟨rfl, rfl⟩ := Machine.descriptor_eq_some.1 hd
    rw [puInstr_of_descriptor hd, encodeFor_paramInstr, encodeParam]

theorem wellFormedFor_sxInstrFor (cfg : Config K) {vendor body : List Byte} (hv : vendor.length < 256)
    (hb : body.length < 65536) : (sxInstrFor cfg vendor body).wellFormedFor cfg = true := by
  rcases sxInstrFor_cases cfg vendor body with
    ⟨dev, aH, aL, value, tail, -, rfl, e⟩ | ⟨dev, records, hsub, -, rfl, e⟩ | ⟨dev, records, hsub, -, rfl, e⟩ |
    ⟨hnamed, e⟩ <;> rw [e]
  · exact decide_eq_true hb
  · exact Bool.and_eq_true_iff.2 ⟨bne_iff_ne.2 hsub, decide_eq_true hb⟩
  · exact Bool.and_eq_true_iff.2 ⟨bne_iff_ne.2 hsub, decide_eq_true hb⟩
  · simp [Instr.wellFormedFor, hv, hb, hnamed]

theorem encodeFor_sxInstrFor (cfg : Config K) (vendor body : List Byte) :
    encodeFor cfg (sxInstrFor cfg vendor body) = encodeSx vendor body := by
  rcases sxInstrFor_cases cfg vendor body with
    ⟨dev, aH, aL, value, tail, rfl, rfl, e⟩ | ⟨dev, records, -, rfl, rfl, e⟩ | ⟨dev, records, -, rfl, rfl, e⟩ |
    ⟨-, e⟩ <;> rw [e] <;> rfl

/-- Encoding inverts decoding, format by format. -/
theorem encodeFor_of_decodeFor {cfg : Config K} {items rest : List (PortItem K)} {i : Instr K}
    (h : decodeFor cfg items = .instr i rest) :
    i.wellFormedFor cfg = true ∧ items = encodeFor cfg i ++ rest := by
  obtain ⟨op, tail, rfl, hrec⟩ := decodeFor_eq_instr.1 h
  rcases takeRecord_cases hrec with ⟨rfl, hpu⟩ | ⟨rfl, hsx⟩ | ⟨rfl, henc⟩ | ⟨rfl, hproc⟩ | ⟨rfl, rfl, rfl⟩ |
    ⟨rfl, hset⟩ | ⟨rfl, rfl, rfl⟩
  · obtain ⟨ch, aH, aL, vH, vL, rfl, rfl⟩ := puInstr_of_takePu hpu
    exact ⟨wellFormedFor_puInstr cfg ch aH aL vH vL, by rw [encodeFor_puInstr]; rfl⟩
  · obtain ⟨vendor, body, hv, hb, hitems, rfl⟩ := encodeSx_of_takeSx hsx
    exact ⟨wellFormedFor_sxInstrFor cfg hv hb, by rw [encodeFor_sxInstrFor, hitems]⟩
  · rcases enc_of_takeEnc henc with ⟨rfl, rfl⟩ | ⟨rfl, rfl⟩ <;> exact ⟨rfl, rfl⟩
  · obtain ⟨frames, levels, hf, hl, rfl, rfl⟩ := proc_of_takeProc hproc
    exact ⟨by simp [Instr.wellFormedFor, hf, hl], by simp [encodeFor]⟩
  · exact ⟨rfl, rfl⟩
  · obtain ⟨snap, rfl, rfl⟩ := set_of_takeSet hset
    exact ⟨rfl, rfl⟩
  · exact ⟨rfl, rfl⟩

/-! ## Refused records (30_encoding R131, R134, R151) -/

/-- A reserved opcode is a record of one byte. -/
theorem decodeFor_reserved_opcode (cfg : Config K) {b : Byte} (h : b.toNat = 0 ∨ 8 ≤ b.toNat)
    (rest : List (PortItem K)) : decodeFor cfg (.byte b :: rest) = .refused rest := by
  have hne : b ≠ 1#8 ∧ b ≠ 2#8 ∧ b ≠ 3#8 ∧ b ≠ 4#8 ∧ b ≠ 5#8 ∧ b ≠ 6#8 ∧ b ≠ 7#8 := by bv_omega
  have hrec : takeRecord cfg b rest = .got none rest := by simp [takeRecord, hne]
  rw [decodeFor, takeByte_byte, thenTake_got, hrec]

/-- A reserved ENC scope is a record of two bytes (notes/assumptions/16.md). -/
theorem decodeFor_reserved_scope (cfg : Config K) {b : Byte} (h : 2 ≤ b.toNat) (rest : List (PortItem K)) :
    decodeFor cfg (.byte 0x03 :: .byte b :: rest) = .refused rest := by
  have hne : b ≠ 0#8 ∧ b ≠ 1#8 := by bv_omega
  have hrec : takeRecord cfg 0x03 (.byte b :: rest) = .got none rest := by simp [takeRecord, takeEnc, hne]
  rw [decodeFor, takeByte_byte, thenTake_got, hrec]

end

/-- Settles O1, at the machine's parameters and at any. -/
theorem decodeInvertsEncode : Obligations.DecodeInvertsEncode :=
  ⟨fun _ rest h => decodeFor_encodeFor h rest, fun _ _ _ rest h => decodeFor_encodeFor h rest⟩

/-- Settles O2, at the machine's parameters and at any. -/
theorem encodeInvertsDecode : Obligations.EncodeInvertsDecode :=
  ⟨fun _ _ _ h => encodeFor_of_decodeFor h, fun _ _ _ _ _ h => encodeFor_of_decodeFor h⟩

namespace Machine

/-- A step answers REFUSED to a refused record, which it takes off the port (30_encoding R151). -/
theorem step_of_refused {s : State} {rest : List PortItem} (h : decode s.port = .refused rest) :
    step s = .next { s with port := rest, result := some .refused } := by
  rw [step, h]; rfl

end Machine

/-- Settles O3, by `step_of_refused` at the two kinds of reserved record. -/
theorem reservedRecordsAreRefused : Obligations.ReservedRecordsAreRefused := by
  intro s b rest
  constructor
  · intro hport hb
    exact Machine.step_of_refused (by rw [hport]; exact decodeFor_reserved_opcode Config.machine hb rest)
  · intro hport hb
    exact Machine.step_of_refused (by rw [hport]; exact decodeFor_reserved_scope Config.machine hb rest)

/-- Bytes that are the record of a well-formed instruction decode to it. -/
theorem decode_of_encode {i : Instr} {items : List PortItem} (hwf : i.wellFormed = true) (h : encode i = items) :
    decode items = .instr i [] := by
  rw [← h, ← List.append_nil (encode i)]
  exact decodeFor_encodeFor hwf []

/-- Settles O4: the bytes are what the encoder writes for each of these well-formed instructions. -/
theorem knownRecordsDecode : Obligations.KnownRecordsDecode :=
  ⟨decode_of_encode rfl rfl, decode_of_encode rfl rfl, decode_of_encode rfl rfl, decode_of_encode rfl rfl,
   decode_of_encode rfl rfl, decode_of_encode rfl rfl, decode_of_encode rfl rfl, decode_of_encode rfl rfl,
   decode_of_encode rfl rfl, decode_of_encode rfl rfl, decode_of_encode rfl rfl, decode_of_encode rfl rfl⟩

end Sys2Proof
end

section
/-! The decode and encode transforms (30_encoding R139, R140, R142): O20, O21, O22. -/

namespace Sys2Proof.Machine

/-! ## Value bytes (30_encoding R139) -/

theorem value14_div (vH : Byte) {vL : Byte} (hL : vL.toNat ≤ 127) : value14 vH vL / 128 = vH.toNat := by
  unfold value14; omega

theorem value14_mod (vH : Byte) {vL : Byte} (hL : vL.toNat ≤ 127) : value14 vH vL % 128 = vL.toNat := by
  unfold value14; omega

theorem highByte_value14 (vH : Byte) {vL : Byte} (hL : vL.toNat ≤ 127) : highByte (value14 vH vL) = vH := by
  rw [highByte, value14_div vH hL, BitVec.ofNat_toNat, BitVec.setWidth_eq]

theorem lowByte_value14 (vH : Byte) {vL : Byte} (hL : vL.toNat ≤ 127) : lowByte (value14 vH vL) = vL := by
  rw [lowByte, value14_mod vH hL, BitVec.ofNat_toNat, BitVec.setWidth_eq]

section
variable {K : Type} [Zero K] [One K] [Add K] [Sub K] [Mul K] [Div K] [Neg K] [NatCast K] [IntCast K] [Max K] [Min K]
  [LT K] [DecidableLT K] [DecidableEq K]

/-- An inadmissible PU is dropped at every address (40_protocol R182). -/
theorem parameterUpdate_of_not_admissible {ch vH vL : Byte} (h : admissible ch vH vL = false) (aH aL : Byte)
    (s : State K) : parameterUpdate ch aH aL vH vL s = s := by
  rcases parameterUpdate_cases ch aH aL vH vL s with ⟨f, -, -, hrow⟩ | ⟨-, hnone⟩
  · rw [hrow, paramWrite_of_not_admissible f h]
  · exact hnone

end

/-- A value byte that is no data byte makes a write inadmissible, whatever the channel (30_encoding R139). -/
theorem not_admissible_of_value {vH vL : Byte} (h : 127 < vH.toNat ∨ 127 < vL.toNat) (ch : Byte) :
    admissible ch vH vL = false := by
  rw [Bool.eq_false_iff, Ne, admissible_iff]
  rintro ⟨hH, hL, -⟩
  omega

/-- Settles O20: the two halves of a value are its quotient and remainder by 128, and a byte above 127 makes a write
inadmissible. -/
theorem valueBytesAssemble : Obligations.ValueBytesAssemble := by
  intro vH vL
  refine ⟨fun hH hL => ⟨rfl, ?_, value14_div vH hL, value14_mod vH hL, highByte_value14 vH hL, lowByte_value14 vH hL⟩,
    fun h f ch aH aL s => ⟨?_, ?_⟩⟩
  · exact value14_le (decide_eq_true hH) (decide_eq_true hL)
  · rw [exec_paramInstr, paramWrite_of_not_admissible f (not_admissible_of_value h ch)]
    rfl
  · rw [exec_pu, parameterUpdate_of_not_admissible (not_admissible_of_value h ch)]
    rfl

section
variable {K : Type} [Field K]

/-! ## Legal values fit 14 bits (30_encoding R141, R142) -/

/-- Every index row of the table has at most 128 legal values. -/
theorem fieldTransform_idx_le (f : ParamField) {m : Nat} (h : (fieldTransform f : Transform K) = .idx m) : m ≤ 127 := by
  cases f with
  | sys f =>
    cases f <;> cases h
    all_goals decide
  | ch f =>
    cases f <;> cases h
    all_goals decide

variable [LinearOrder K]

theorem encodeValue_idx (n : Numerics K) (m : Nat) {k : Int} (h : 0 ≤ k) :
    (encodeValue n (.idx m) (.index k : Value K) : Int) = 128 * k := by
  show ((k * 128).toNat : Int) = 128 * k
  omega

/-- A legal value encodes to 14 bits: the index of a row is at most 127. -/
theorem encodeValue_le (n : Numerics K) {t : Transform K} (ht : ∀ m, t = .idx m → m ≤ 127) {x : Value K}
    (hx : valueLegal t x) : encodeValue n t x ≤ 16383 := by
  cases t with
  | lin lo hi => exact clampInt_toNat_le _
  | pan => exact clampInt_toNat_le _
  | bool => rw [encodeValue]; split <;> omega
  | idx m =>
    have hm := ht m rfl
    cases x with
    | real y => cases hx
    | flag b => cases hx
    | index k =>
      obtain ⟨h0, h1⟩ := hx
      have hk := encodeValue_idx n m h0
      omega

variable [FloorRing K]

/-! ## Decoding (30_encoding R140) -/

theorem decodeValue_lin_ends (lo hi : K) :
    decodeValue (.lin lo hi) 0 = .real lo ∧ decodeValue (.lin lo hi) 16383 = .real hi := by
  constructor
  · rw [decodeValue_lin rfl, Nat.cast_zero, mul_zero, zero_div, add_zero]
  · rw [decodeValue_lin rfl, Nat.cast_ofNat, mul_div_cancel_right₀ _ (by norm_num), add_sub_cancel]

/-- The physical pan is 2x − 1 for the stored position x. -/
theorem physicalPan_eq (v : Nat) : (physicalPan v : K) = 2 * ((v : K) / 16383) - 1 := by
  unfold physicalPan; ring

/-! ## Encoding (30_encoding R142) -/

/-- The clamp of an encoded real, as an integer. -/
theorem clampInt_toNat (z : Int) : ((clampInt z 0 16383).toNat : Int) = min 16383 (max 0 z) := by
  unfold clampInt; omega

theorem encodeValue_lin {n : Numerics K} (hn : n.IsExact) (lo hi x : K) :
    (encodeValue n (.lin lo hi) (.real x) : Int) = min 16383 (max 0 ⌊(x - lo) / (hi - lo) * 16383 + 1 / 2⌋) := by
  rw [← hn.floor_eq]; exact clampInt_toNat _

theorem encodeValue_pan {n : Numerics K} (hn : n.IsExact) (x : K) :
    (encodeValue n .pan (.real x : Value K) : Int) = min 16383 (max 0 ⌊x * 16383 + 1 / 2⌋) := by
  rw [← hn.floor_eq]; exact clampInt_toNat _

variable [IsStrictOrderedRing K]

/-- A 14-bit value rounds to itself. -/
theorem clamped_roundHalfUp_natCast {n : Numerics K} (hn : n.IsExact) {v : Nat} (hv : v ≤ 16383) :
    (clampInt (roundHalfUp n (v : K)) 0 16383).toNat = v := by
  rw [roundHalfUp_natCast hn, clampInt_of_mem (by omega) (by omega), Int.toNat_natCast]

/-- The linear transform carries v to the fraction v/16383 of its range. -/
theorem encodeValue_decodeValue_lin {n : Numerics K} (hn : n.IsExact) {lo hi : K} (h : lo < hi) {v : Nat}
    (hv : v ≤ 16383) : encodeValue n (.lin lo hi) (decodeValue (.lin lo hi) v) = v := by
  have hd : hi - lo ≠ 0 := (sub_pos.2 h).ne'
  have hfraction : (lo + (hi - lo) * v / 16383 - lo) / (hi - lo) * 16383 = (v : K) := by
    field_simp
    ring
  rw [decodeValue, encodeValue, Value.toReal, hfraction, clamped_roundHalfUp_natCast hn hv]

theorem encodeValue_decodeValue_pan {n : Numerics K} (hn : n.IsExact) {v : Nat} (hv : v ≤ 16383) :
    encodeValue n .pan (decodeValue .pan v : Value K) = v := by
  rw [decodeValue, encodeValue, Value.toReal, div_mul_cancel₀ _ (by norm_num), clamped_roundHalfUp_natCast hn hv]

/-- An encoded fraction of a range is within half a step of it. -/
theorem abs_decoded_fraction_sub_le {n : Numerics K} (hn : n.IsExact) {d y : K} (hd : 0 ≤ d) (h0 : 0 ≤ y) (h1 : y ≤ 1) :
    |d * ((clampInt (roundHalfUp n (y * 16383)) 0 16383).toNat : K) / 16383 - d * y| ≤ d / 32766 := by
  rw [clamped_roundHalfUp hn (by positivity) (by linarith)]
  have hround := abs_roundHalfUp_sub_le hn (y * 16383)
  calc |d * (roundHalfUp n (y * 16383) : K) / 16383 - d * y|
      = |d / 16383 * ((roundHalfUp n (y * 16383) : K) - y * 16383)| := by congr 1; ring
    _ = d / 16383 * |(roundHalfUp n (y * 16383) : K) - y * 16383| := by
        rw [abs_mul, abs_of_nonneg (by positivity)]
    _ ≤ d / 16383 * (1 / 2) := mul_le_mul_of_nonneg_left hround (by positivity)
    _ = d / 32766 := by ring

/-- A legal value decodes back to within half a quantisation step. -/
theorem valueWithinStep_decode_encode {n : Numerics K} (hn : n.IsExact) {t : Transform K} (ht : transformProper t)
    {x : Value K} (hx : valueLegal t x) : valueWithinStep t (decodeValue t (encodeValue n t x)) x := by
  cases t <;> cases x <;> try cases hx
  case lin.real lo hi x h0 h1 =>
    have hd : 0 < hi - lo := sub_pos.2 ht
    have hstep := abs_decoded_fraction_sub_le hn hd.le (y := (x - lo) / (hi - lo))
      (div_nonneg (sub_nonneg.2 h0) hd.le) ((div_le_one hd).2 (sub_le_sub_right h1 lo))
    rw [mul_div_cancel₀ _ hd.ne', sub_sub_eq_add_sub, add_comm _ lo] at hstep
    exact hstep
  case idx.index m k h0 h1 =>
    have hk := encodeValue_idx (K := K) n m h0
    show ((min m (encodeValue n (.idx m) (.index k : Value K) / 128) : Nat) : Int) = k
    omega
  case bool.flag b => cases b <;> rfl
  case pan.real x h0 h1 =>
    have hstep := abs_decoded_fraction_sub_le hn zero_le_one h0 h1
    rw [one_mul, one_mul] at hstep
    exact hstep

end

/-- Settles O21; that a decoded value is legal is `decodeValue_legal`, at rows of which each has lo < hi. -/
theorem decodeTransformsAreTotalAndLegal : Obligations.DecodeTransformsAreTotalAndLegal := by
  intro K _ _ _ _
  exact ⟨fun _ _ => decodeValue_lin rfl, decodeValue_lin_ends, fun _ _ => rfl, fun _ => rfl,
    fun v => ⟨rfl, physicalPan_eq v⟩, fun f _ hv => decodeValue_legal (fieldTransform_proper f) hv⟩

/-- Settles O22: the formulas are those of the transforms, and rounding moves a value by at most one half. -/
theorem encodeInvertsTheTransforms : Obligations.EncodeInvertsTheTransforms := by
  intro K _ _ _ _ n hn
  exact ⟨fun lo hi x _ => encodeValue_lin hn lo hi x, encodeValue_pan hn, fun m _ h0 _ => encodeValue_idx n m h0,
    fun _ => rfl, fun _ _ _ h hv => ⟨encodeValue_decodeValue_lin hn h hv, encodeValue_decodeValue_pan hn hv⟩,
    fun f _ hx => ⟨encodeValue_le n (fun _ => fieldTransform_idx_le f) hx,
      valueWithinStep_decode_encode hn (fieldTransform_proper f) hx⟩⟩

end Sys2Proof.Machine
end

section
/-! Ignored SysEx and the bulk-dump encode (30_encoding R147, R148): O24, O27. -/

namespace Sys2Proof.Machine

/-! ## Messages of no layout (30_encoding R148) -/

section
variable {K : Type} [Zero K] [One K] [Add K] [Sub K] [Mul K] [Div K] [Neg K] [NatCast K] [IntCast K] [DecidableEq K]

/-- A message of none of the three layouts does nothing (40_protocol R186). -/
theorem sysEx_of_not_named {cfg : Config K} {vendor body : List Byte} (h : isNamedSysEx cfg vendor body = false)
    (s : State K) : sysEx cfg vendor body s = s := by
  unfold sysEx
  split
  · next hv =>
    subst hv
    rcases body with _ | ⟨dev, _ | ⟨sub, rest⟩⟩
    · rfl
    · rfl
    · by_cases hpc : sub = cfg.pcSubstatus
      · rcases rest with _ | ⟨aH, _ | ⟨aL, _ | ⟨value, tail⟩⟩⟩ <;> simp_all [isNamedSysEx]
      · rcases rest with _ | ⟨kind, records⟩ <;> simp_all [isNamedSysEx]
  · rfl

end

theorem exec_sx_of_not_named {vendor body : List Byte} (h : isNamedSysEx Config.machine vendor body = false)
    (s : State) : exec (.sx vendor body) s = .next { s with result := some .ok } := by
  show Host.Outcome.next (answer .ok (sysEx Config.machine vendor body s)) = _
  rw [sysEx_of_not_named h]
  rfl

/-- Settles O24: a message of one of the three layouts has the vendor byte, the length, the sub-status and the framing byte that
each of the listed messages lacks; every other message is a no-op. -/
theorem malformedSysExIsIgnored : Obligations.MalformedSysExIsIgnored := by
  intro vendor body s h
  rcases sxInstr_cases vendor body with
    ⟨dev, aH, aL, value, tail, rfl, rfl, -⟩ | ⟨dev, records, rfl, rfl, -⟩ | ⟨dev, records, rfl, rfl, -⟩ | ⟨hnamed, -⟩
  · simp at h; omega
  · simp at h; omega
  · simp at h; omega
  · exact exec_sx_of_not_named hnamed s

/-! ## Dumps (40_protocol R191) -/

theorem sysAddress_le (f : SysField) : (sysAddress f).toNat ≤ 127 := by cases f <;> decide

theorem chAddress_le (f : ChField) : (chAddress f).toNat ≤ 127 := by cases f <;> decide

/-- The two value bytes of a 14-bit value are data bytes. -/
theorem valueBytes_le {v : Nat} (h : v ≤ 16383) : ∀ b ∈ valueBytes v, b.toNat ≤ 127 := by
  simp only [valueBytes, highByte, lowByte, List.mem_cons, List.not_mem_nil, or_false, forall_eq_or_imp, forall_eq,
    BitVec.toNat_ofNat]
  omega

section
variable {K : Type} [Field K] [LinearOrder K]

theorem systemDumpRecords_length (n : Numerics K) (p : Params K) : (systemDumpRecords n p).length = 136 := by
  simp [systemDumpRecords, systemDumpRecord, valueBytes, sysFields]

theorem channelDumpRecords_length (n : Numerics K) (ch : Vector (Channel K) 16) :
    (channelDumpRecords n ch).length = 1200 := by
  simp [channelDumpRecords, channelDumpRecord, valueBytes, List.length_flatMap, chFields]

theorem systemDumpRecord_le (n : Numerics K) {p : Params K} (hp : paramsLegal p) (f : SysField) :
    ∀ b ∈ systemDumpRecord n p f, b.toNat ≤ 127 := by
  have hv := valueBytes_le (encodeValue_le n (fun _ => fieldTransform_idx_le (.sys f)) (hp f))
  simp only [systemDumpRecord, List.mem_append, List.mem_cons, List.not_mem_nil, or_false]
  rintro b ((rfl | rfl) | hb)
  · decide
  · exact sysAddress_le f
  · exact hv b hb

theorem channelDumpRecord_le (n : Numerics K) (c : Fin 16) {bank : Channel K} (hbank : channelLegal bank) (f : ChField) :
    ∀ b ∈ channelDumpRecord n c.val bank f, b.toNat ≤ 127 := by
  have hv := valueBytes_le (encodeValue_le n (fun _ => fieldTransform_idx_le (.ch f)) (hbank f))
  simp only [channelDumpRecord, List.mem_append, List.mem_cons, List.not_mem_nil, or_false]
  rintro b ((rfl | rfl | rfl) | hb)
  · rw [BitVec.toNat_ofNat]; omega
  · decide
  · exact chAddress_le f
  · exact hv b hb

/-- Every byte of a legal system dump's records is a data byte (30_encoding R147). -/
theorem systemDumpRecords_le (n : Numerics K) {p : Params K} (hp : paramsLegal p) :
    ∀ b ∈ systemDumpRecords n p, b.toNat ≤ 127 := by
  intro b hb
  obtain ⟨f, -, hb⟩ := List.mem_flatMap.1 hb
  exact systemDumpRecord_le n hp f b hb

/-- Every byte of a legal per-channel dump's records is a data byte (30_encoding R147). -/
theorem channelDumpRecords_le (n : Numerics K) {ch : Vector (Channel K) 16} (hch : ∀ c : Fin 16, channelLegal ch[c]) :
    ∀ b ∈ channelDumpRecords n ch, b.toNat ≤ 127 := by
  intro b hb
  obtain ⟨c, -, hb⟩ := List.mem_flatMap.1 hb
  obtain ⟨f, -, hb⟩ := List.mem_flatMap.1 hb
  exact channelDumpRecord_le n c (hch c) f b hb

end

/-- The header bytes of a dump behind its vendor byte are data bytes, so the dump is one where its records are. -/
theorem dump_le {kind : Byte} (hkind : kind.toNat ≤ 127) {records : List Byte} (h : ∀ b ∈ records, b.toNat ≤ 127) :
    ∀ b ∈ [0x7F, 0x00, kind] ++ records, b.toNat ≤ 127 := by
  simp only [List.mem_append, List.mem_cons, List.not_mem_nil, or_false]
  rintro b ((rfl | rfl | rfl) | hb)
  · decide
  · decide
  · exact hkind
  · exact h b hb

/-- Settles O27: each dump is the header and the records, as they stand; their lengths and data bytes are those of the
records. -/
theorem dumpsFollowTheLayout : Obligations.DumpsFollowTheLayout := by
  refine ⟨⟨by decide, mem_sysFields⟩, ⟨by decide, mem_chFields⟩, fun s => ?_⟩
  refine ⟨[0x7F, 0x00, 0x03] ++ systemDumpRecords Config.numerics s.p,
    [0x7F, 0x00, 0x04] ++ channelDumpRecords Config.numerics s.ch, rfl, rfl, rfl, rfl, ?_, ?_, fun h => ⟨?_, ?_⟩⟩
  · rw [List.length_append, systemDumpRecords_length]; rfl
  · rw [List.length_append, channelDumpRecords_length]; rfl
  · exact dump_le (by decide) (systemDumpRecords_le Config.numerics h.params)
  · exact dump_le (by decide) (channelDumpRecords_le Config.numerics h.banks)

end Sys2Proof.Machine
end


section
/-! Parameter updates, the write of one field, and the channel it reaches (40_protocol R180 to R183, R187): O16, O17, O18,
O19, O23. -/

namespace Sys2Proof.Machine

/-! ## PU at an address (40_protocol R180, R182) -/

/-- What makes a write inadmissible (40_protocol R182). -/
theorem not_admissible_iff (ch vH vL : Byte) :
    admissible ch vH vL = false ↔ 127 < vH.toNat ∨ 127 < vL.toNat ∨ (15 < ch.toNat ∧ ch ≠ 0xFF) := by
  rw [← Bool.not_eq_true, admissible_iff, not_and_or, not_and_or, not_or, not_le, not_le, not_le]

section
variable {K : Type} [Zero K] [One K] [Add K] [Sub K] [Mul K] [Div K] [Neg K] [NatCast K] [IntCast K] [DecidableEq K]

theorem parameterUpdate_fieldAddress (f : ParamField) (ch vH vL : Byte) (s : State K) :
    parameterUpdate ch 0 (fieldAddress f) vH vL s = paramWrite f ch vH vL s := by
  simp only [parameterUpdate, descriptor_fieldAddress]

theorem parameterUpdate_of_unknown {aH aL : Byte} (h : aH ≠ 0 ∨ ∀ f, aL ≠ fieldAddress f) (ch vH vL : Byte)
    (s : State K) : parameterUpdate ch aH aL vH vL s = s := by
  have hnone : descriptor aH aL = none := descriptor_eq_none.2 (h.imp_right fun hf f => (hf f).symm)
  simp only [parameterUpdate, hnone]

end

/-- A PU at the address of a row is the row's own instruction. -/
theorem exec_pu_fieldAddress (f : ParamField) (ch vH vL : Byte) (s : State) :
    exec (.pu ch 0 (fieldAddress f) vH vL) s = exec (paramInstr f ch vH vL) s := by
  rw [exec_pu, exec_paramInstr, parameterUpdate_fieldAddress]

theorem exec_pu_of_not_admissible {ch vH vL : Byte} (h : admissible ch vH vL = false) (aH aL : Byte) (s : State) :
    exec (.pu ch aH aL vH vL) s = .next { s with result := some .ok } := by
  rw [exec_pu, parameterUpdate_of_not_admissible h]
  rfl

theorem exec_pu_of_unknown {aH aL : Byte} (h : aH ≠ 0 ∨ ∀ f, aL ≠ fieldAddress f) (ch vH vL : Byte) (s : State) :
    exec (.pu ch aH aL vH vL) s = .next { s with result := some .ok } := by
  rw [exec_pu, parameterUpdate_of_unknown h]
  rfl

/-- Settles O16: an inadmissible PU and one at no address are dropped; any other is its row's instruction, whose write is
`paramWrite`. -/
theorem generalUpdateFollowsTheTable : Obligations.GeneralUpdateFollowsTheTable := by
  intro ch aH aL vH vL s
  refine ⟨fun h => exec_pu_of_not_admissible ((not_admissible_iff ch vH vL).2 h) aH aL s,
    fun h => exec_pu_of_unknown h ch vH vL s, ?row, ?stored⟩
  case row =>
    rintro f rfl rfl
    exact exec_pu_fieldAddress f ch vH vL s
  case stored =>
    rintro f rfl rfl hH hL hch
    rw [exec_pu_fieldAddress, exec_paramInstr,
      paramWrite_of_admissible f ((admissible_iff ch vH vL).2 ⟨hH, hL, hch⟩)]
    rfl

/-- Settles O17: `admissible_iff`, and that the general PU and every row drop what is not admissible. -/
theorem inadmissibleUpdatesAreDropped : Obligations.InadmissibleUpdatesAreDropped := by
  refine fun ch vH vL => ⟨admissible_iff ch vH vL, fun h s =>
    ⟨fun aH aL => exec_pu_of_not_admissible h aH aL s, fun f => ?row⟩⟩
  case row =>
    rw [exec_paramInstr, paramWrite_of_not_admissible f h]
    rfl

/-! ## The write of one field (40_protocol R183) -/

/-- Settles O19: what a register reads after a write to the same and to another field, and that one bank of the sixteen is
written. -/
theorem fieldWriteChangesOneField : Obligations.FieldWriteChangesOneField := by
  refine ⟨fun f c v s x hx => ⟨?sameField, fun g hg => readSys_writeSys_other s.p hg x, rfl, fun _ => rfl⟩,
    fun f c v s x hx => ?bank⟩
  case sameField =>
    subst hx
    exact readSys_writeSys_same s.p f (ofKind_decodeValue _ v)
  case bank =>
    have hc : (writeField (.ch f) c x s).ch[c] = writeCh s.ch[c] f x := by
      rw [writeField_ch_get, if_pos rfl]
    refine ⟨?_, fun g hg => ?_, fun d hd => ?_, ?_⟩
    · subst hx
      rw [hc, readCh_writeCh_same _ f (ofKind_decodeValue _ v)]
    · rw [hc, readCh_writeCh_other _ hg]
    · rw [writeField_ch_get, if_neg (Fin.val_ne_of_ne hd)]
    · rw [writeField_ch]

/-! ## SX parameter change (40_protocol R187) -/

/-- A parameter change spelt as a general SX is the instruction of its layout. -/
theorem exec_sx_paramChange (dev aH aL value : Byte) (tail : List Byte) (s : State) :
    exec (.sx [0x43] (dev :: 0x10 :: aH :: aL :: value :: tail)) s = exec (.sxParamChange dev aH aL value tail) s := by
  rw [exec_sx]
  exact congrArg (exec · s) (sxInstrFor_paramChange Config.machine dev aH aL value tail)

/-- A parameter change is a PU with the channel absent and valueLow 0. -/
theorem exec_sxParamChange (dev aH aL value : Byte) (tail : List Byte) (s : State) :
    exec (.sxParamChange dev aH aL value tail) s = exec (.pu 0xFF aH aL value 0x00) s := rfl

theorem isNamedSysEx_of_short_paramChange (dev : Byte) {short : List Byte} (h : short.length < 3) :
    isNamedSysEx Config.machine [0x43] (dev :: 0x10 :: short) = false := by
  simp [isNamedSysEx, vendorId_machine, pcSubstatus_machine, h]

/-- Settles O23: the parameter change is that PU, so the rows' own writes and the two ways in which a PU is dropped are its. -/
theorem parameterChangeIsAnUpdateThroughTheCursor : Obligations.ParameterChangeIsAnUpdateThroughTheCursor := by
  intro dev aH aL value tail s
  refine ⟨exec_sx_paramChange dev aH aL value tail s,
    fun short h => exec_sx_of_not_named (isNamedSysEx_of_short_paramChange dev h) s,
    exec_sxParamChange dev aH aL value tail s, fun hvalue h0 => ?stored, fun h => ?dropped⟩
  case stored =>
    subst h0
    have hlow : (0x00 : Byte).toNat ≤ 127 := by decide
    constructor
    · rintro f rfl
      rw [exec_sxParamChange]
      exact (exec_pu_fieldAddress (.sys f) 0xFF value 0x00 s).trans
        (exec_sysRow hvalue hlow rfl (.inr rfl) f rfl)
    · rintro f c rfl hcursor
      rw [exec_sxParamChange]
      exact (exec_pu_fieldAddress (.ch f) 0xFF value 0x00 s).trans
        (exec_chRow hvalue hlow rfl (.inr ⟨rfl, hcursor⟩) f rfl)
  case dropped =>
    rw [exec_sxParamChange]
    rcases h with hvalue | hunknown
    · exact exec_pu_of_not_admissible (not_admissible_of_value (.inl hvalue) 0xFF) aH aL s
    · exact exec_pu_of_unknown hunknown 0xFF value 0x00 s

/-! ## The resolved bank (40_protocol R181) -/

/-- The bank a channel byte names, as an integer; an absent channel needs a cursor that is no negative number. -/
theorem resolveChannel_cast {ch : Byte} {s : State}
    (h : ch.toNat ≤ 15 ∨ (ch = 0xFF ∧ 0 ≤ s.p.global.currentChannel)) :
    (resolveChannel ch s : Int) = if ch = 0xFF then s.p.global.currentChannel else (ch.toNat : Int) := by
  unfold resolveChannel
  by_cases habsent : ch = 0xFF
  · have hcursor : 0 ≤ s.p.global.currentChannel := by
      rcases h with h | h
      · subst habsent
        exact absurd h (by decide)
      · exact h.2
    rw [if_pos habsent, if_pos habsent, if_neg (by omega), Int.toNat_of_nonneg hcursor]
  · rw [if_neg habsent, if_neg habsent]

/-! ## The cursor and its only writers (40_protocol R181) -/

theorem writeField_cursor {f : ParamField} (h : f ≠ .sys .globalCurrentChannel) (c : Nat) (x : Value) (s : State) :
    (writeField f c x s).p.global.currentChannel = s.p.global.currentChannel := by
  cases f with
  | sys f => exact Value.index.inj (readSys_writeSys_other s.p (fun e => h (congrArg ParamField.sys e.symm)) x)
  | ch f => rw [writeField_ch_p]

theorem paramWrite_cursor {f : ParamField} (h : f ≠ .sys .globalCurrentChannel) (ch vH vL : Byte) (s : State) :
    (paramWrite f ch vH vL s).p.global.currentChannel = s.p.global.currentChannel := by
  unfold paramWrite
  split
  · exact writeField_cursor h _ _ s
  · rfl

/-- A PU of another address than (0x00, 0x3A) does not write the cursor. -/
theorem parameterUpdate_cursor {aH aL : Byte} (h : aH ≠ 0x00 ∨ aL ≠ 0x3A) (ch vH vL : Byte) (s : State) :
    (parameterUpdate ch aH aL vH vL s).p.global.currentChannel = s.p.global.currentChannel := by
  rcases parameterUpdate_cases ch aH aL vH vL s with ⟨f, rfl, rfl, hrow⟩ | ⟨-, hnone⟩
  · rw [hrow]
    refine paramWrite_cursor ?_ ch vH vL s
    rintro rfl
    exact h.elim (· rfl) (· rfl)
  · rw [hnone]

theorem applyWrites_cursor {ws : List FieldWrite} (h : ∀ w ∈ ws, w.field ≠ .sys .globalCurrentChannel) (s : State) :
    (applyWrites ws s).p.global.currentChannel = s.p.global.currentChannel := by
  induction ws generalizing s with
  | nil => rfl
  | cons w ws ih =>
    obtain ⟨hw, hws⟩ := List.forall_mem_cons.1 h
    rw [applyWrites_cons, ih hws]
    exact writeField_cursor hw w.bank _ s

/-- A record of a per-channel dump names a channel field. -/
theorem channelWrites_scope (records : List Byte) : ∀ w ∈ channelWrites records, ∃ f, w.field = .ch f := fun w hw => by
  obtain ⟨bs, hbs⟩ := scanRecords_mem channelRecord 5 0 records w hw
  exact channelRecord_scope hbs

/-- A record of a system dump names a system field. -/
theorem systemWrites_scope (records : List Byte) : ∀ w ∈ systemWrites records, ∃ f, w.field = .sys f := fun w hw => by
  obtain ⟨bs, hbs⟩ := scanRecords_mem systemRecord 4 0 records w hw
  exact systemRecord_scope hbs

/-- Settles O18: the bank written is the resolved one; and command by command, what is written is not the cursor. -/
theorem channelWritesGoToTheResolvedBank : Obligations.ChannelWritesGoToTheResolvedBank := by
  refine ⟨fun f ch vH vL s hH hL hch => ?bank, descriptor_fieldAddress (.sys .globalCurrentChannel),
    fun ch aH aL vH vL s t ha h => ?pu, fun f ch vH vL s t hf h => ?row,
    fun dev aH aL value tail s t ha h => ?paramChange, fun vendor body s t hwf h => ?sx,
    fun dev records s t h => ?bulkChannel, fun dev records s t hw h => ?bulkSystem, fun i s t hi h => ?reader⟩
  case bank =>
    have hadm : admissible ch vH vL = true := (admissible_iff ch vH vL).2 ⟨hH, hL, hch.imp_right And.left⟩
    refine ⟨_, exec_paramInstr (.ch f) ch vH vL s, paramWrite_ch_p f ch vH vL s, fun c => ?_⟩
    rw [answer_ch, paramWrite_of_admissible _ hadm, writeField_ch_get,
      ← resolveChannel_cast (hch.imp_right fun h => ⟨h.1, h.2.1⟩)]
    simp only [Nat.cast_inj, eq_comm (a := c.val)]
    rfl
  case pu =>
    obtain rfl := Host.Outcome.next.inj h
    exact parameterUpdate_cursor ha ch vH vL s
  case row =>
    rw [exec_paramInstr] at h
    obtain rfl := Host.Outcome.next.inj h
    exact paramWrite_cursor hf ch vH vL s
  case paramChange =>
    rw [exec_sx_paramChange, or_self] at h
    obtain rfl := Host.Outcome.next.inj h
    exact parameterUpdate_cursor ha 0xFF value 0x00 s
  case sx =>
    have hnamed : isNamedSysEx Config.machine vendor body = false := by
      simp only [Instr.wellFormed, Instr.wellFormedFor, Bool.and_eq_true, Bool.not_eq_true'] at hwf
      exact hwf.2
    rw [exec_sx_of_not_named hnamed] at h
    obtain rfl := Host.Outcome.next.inj h
    rfl
  case bulkChannel =>
    obtain rfl := Host.Outcome.next.inj h
    refine applyWrites_cursor (fun w hw => ?_) s
    obtain ⟨f, hf⟩ := channelWrites_scope records w hw
    simp [hf]
  case bulkSystem =>
    obtain rfl := Host.Outcome.next.inj h
    exact applyWrites_cursor hw s
  case reader =>
    rw [← execFor_machine] at h
    rw [(execFor_keeps_registers h hi).1]

end Sys2Proof.Machine
end

section
/-! The bulk dumps: the scanner, the two framings, and the round trips (40_protocol R188 to R192): O25, O26, O28, O29. -/

namespace Sys2Proof.Machine

/-! ## The scanner (40_protocol R190) -/

section
variable {record : List Byte → Option FieldWrite} {n : Nat}

theorem scanRecords_of_some {b : Byte} {rest : List Byte} {w : FieldWrite} (h : record (b :: rest) = some w) :
    scanRecords record (n + 1) 0 (b :: rest) = w :: scanRecords record (n + 1) 0 (rest.drop n) := by
  simp only [scanRecords, h, Nat.add_sub_cancel, scanRecords_skip record (n + 1) n]

theorem scanRecords_of_none {b : Byte} {rest : List Byte} (h : record (b :: rest) = none) :
    scanRecords record n 0 (b :: rest) = scanRecords record n 0 rest := by
  simp only [scanRecords, h]

/-- Where no record fits, nothing is recognised. -/
theorem scanRecords_of_short (hrecord : ∀ bs : List Byte, bs.length < n → record bs = none) {bs : List Byte}
    (h : bs.length < n) : scanRecords record n 0 bs = [] := by
  induction bs with
  | nil => rfl
  | cons b rest ih =>
    rw [scanRecords_of_none (hrecord _ h)]
    exact ih (Nat.lt_of_succ_lt h)

/-- Records written one after the other are recognised one after the other. -/
theorem scanRecords_flatMap {α : Type} {bytes : α → List Byte} {write : α → FieldWrite} {l : List α}
    (hlen : ∀ a ∈ l, (bytes a).length = n + 1) (hrecord : ∀ a ∈ l, ∀ rest, record (bytes a ++ rest) = some (write a)) :
    scanRecords record (n + 1) 0 (l.flatMap bytes) = l.map write := by
  induction l with
  | nil => rfl
  | cons a l ih =>
    obtain ⟨hlenA, hlen⟩ := List.forall_mem_cons.1 hlen
    obtain ⟨hrecordA, hrecord⟩ := List.forall_mem_cons.1 hrecord
    have hhead := hrecordA (l.flatMap bytes)
    obtain ⟨b, bs, hbytes⟩ := List.exists_cons_of_length_eq_add_one hlenA
    rw [hbytes, List.length_cons, Nat.add_right_cancel_iff] at hlenA
    rw [hbytes, List.cons_append] at hhead
    rw [List.flatMap_cons, hbytes, List.cons_append, scanRecords_of_some hhead, List.drop_left' hlenA, ih hlen hrecord,
      List.map_cons]

end

theorem systemRecord_of_short (bs : List Byte) (h : bs.length < 4) : systemRecord bs = none := by
  rcases bs with _ | ⟨aH, _ | ⟨aL, _ | ⟨vH, _ | ⟨vL, rest⟩⟩⟩⟩
  case cons.cons.cons.cons => simp only [List.length_cons] at h; omega
  all_goals rfl

theorem channelRecord_of_short (bs : List Byte) (h : bs.length < 5) : channelRecord bs = none := by
  rcases bs with _ | ⟨c, _ | ⟨aH, _ | ⟨aL, _ | ⟨vH, _ | ⟨vL, rest⟩⟩⟩⟩⟩
  case cons.cons.cons.cons.cons => simp only [List.length_cons] at h; omega
  all_goals rfl

/-- Settles O25: the three rules of the scanner at each record length, and that applying is a fold in stream order. -/
theorem bulkScannerResynchronises : Obligations.BulkScannerResynchronises :=
  ⟨fun _ => scanRecords_of_short systemRecord_of_short, fun _ _ _ _ _ _ => scanRecords_of_some,
    fun _ _ => scanRecords_of_none,
    fun _ => scanRecords_of_short channelRecord_of_short, fun _ _ _ _ _ _ _ => scanRecords_of_some,
    fun _ _ => scanRecords_of_none, fun _ _ _ => List.foldl_append⟩

/-! ## The two framings (40_protocol R188, R189) -/

theorem sxInstr_bulkSystem (dev : Byte) (records : List Byte) :
    sxInstr [0x43] (dev :: 0x00 :: 0x03 :: records) = .sxBulkSystem dev records :=
  sxInstrFor_bulkSystem (cfg := Config.machine) (by decide) dev records

theorem sxInstr_bulkChannel (dev : Byte) (records : List Byte) :
    sxInstr [0x43] (dev :: 0x00 :: 0x04 :: records) = .sxBulkChannel dev records :=
  sxInstrFor_bulkChannel (cfg := Config.machine) (by decide) dev records

theorem applyWrites_systemWrites_ch (records : List Byte) (s : State) : (applyWrites (systemWrites records) s).ch = s.ch :=
  (applyWrites_frame _ s).2.2.1 (systemWrites_scope records)

theorem applyWrites_channelWrites_p (records : List Byte) (s : State) : (applyWrites (channelWrites records) s).p = s.p :=
  (applyWrites_frame _ s).2.2.2 (channelWrites_scope records)

/-- Settles O26: the framings by their layouts, and the records by `systemRecord_cons_eq_some` and
`channelRecord_cons_eq_some`. -/
theorem bulkDumpsApplyTheirRecords : Obligations.BulkDumpsApplyTheirRecords := by
  refine ⟨fun dev records s => ⟨rfl, rfl, ?system, ?channel, applyWrites_systemWrites_ch records s,
      applyWrites_channelWrites_p records s, applyWrites_rt _ s, applyWrites_rt _ s⟩,
    fun w s => rfl, systemRecord_cons_eq_some, channelRecord_cons_eq_some⟩
  case system => rw [exec_sx, sxInstr_bulkSystem]
  case channel => rw [exec_sx, sxInstr_bulkChannel]

/-! ## The records of a dump are recognised (40_protocol R191) -/

/-- The two value bytes of a 14-bit value are data bytes, and assemble to it (30_encoding R139). -/
theorem valueBytes_assemble {v : Nat} (h : v ≤ 16383) :
    (highByte v).toNat ≤ 127 ∧ (lowByte v).toNat ≤ 127 ∧ (highByte v).toNat * 128 + (lowByte v).toNat = v := by
  simp only [highByte, lowByte, BitVec.toNat_ofNat]
  omega

section
variable {K : Type} [Field K] [LinearOrder K]

/-- What the record of a system field in a dump writes. -/
def systemDumpWrite (n : Numerics K) (p : Params K) (f : SysField) : FieldWrite :=
  ⟨.sys f, 0, encodeValue n (sysTransform f) (readSys p f)⟩

/-- What the record of a field of channel c in a dump writes. -/
def channelDumpWrite (n : Numerics K) (ch : Vector (Channel K) 16) (row : Fin 16 × ChField) : FieldWrite :=
  ⟨.ch row.2, row.1.val, encodeValue n (chTransform row.2) (readCh ch[row.1] row.2)⟩

/-- The rows of a per-channel dump, in its order. -/
def channelRows : List (Fin 16 × ChField) := List.finRange 16 ×ˢ chFields

theorem mem_channelRows (c : Fin 16) (f : ChField) : (c, f) ∈ channelRows :=
  List.mem_product.2 ⟨List.mem_finRange c, mem_chFields f⟩

theorem channelDumpRecords_eq (n : Numerics K) (ch : Vector (Channel K) 16) :
    channelDumpRecords n ch = channelRows.flatMap fun row => channelDumpRecord n row.1.val ch[row.1] row.2 := by
  simp only [channelDumpRecords, channelRows, SProd.sprod, List.product, List.flatMap_assoc, List.flatMap_map]

theorem systemRecord_systemDumpRecord (n : Numerics K) {p : Params K} (hp : paramsLegal p) (f : SysField)
    (rest : List Byte) : systemRecord (systemDumpRecord n p f ++ rest) = some (systemDumpWrite n p f) := by
  obtain ⟨hH, hL, hv⟩ := valueBytes_assemble (encodeValue_le n (fun _ => fieldTransform_idx_le (.sys f)) (hp f))
  exact (systemRecord_cons_eq_some _ _ _ _ rest _).2
    ⟨f, rfl, rfl, hH, hL, congrArg (FieldWrite.mk (.sys f) 0) hv.symm⟩

theorem channelRecord_channelDumpRecord (n : Numerics K) {ch : Vector (Channel K) 16}
    (hch : ∀ c : Fin 16, channelLegal ch[c]) (row : Fin 16 × ChField) (rest : List Byte) :
    channelRecord (channelDumpRecord n row.1.val ch[row.1] row.2 ++ rest) = some (channelDumpWrite n ch row) := by
  obtain ⟨hH, hL, hv⟩ :=
    valueBytes_assemble (encodeValue_le n (fun _ => fieldTransform_idx_le (.ch row.2)) (hch row.1 row.2))
  have hc : (BitVec.ofNat 8 row.1.val).toNat = row.1.val := Nat.mod_eq_of_lt (by omega)
  refine (channelRecord_cons_eq_some _ _ _ _ _ rest _).2
    ⟨row.2, ?_, rfl, rfl, hH, hL, congrArg₂ (FieldWrite.mk (.ch row.2)) hc.symm hv.symm⟩
  omega

/-- Every record of the system dump of legal registers is recognised, in its order. -/
theorem systemWrites_systemDumpRecords (n : Numerics K) {p : Params K} (hp : paramsLegal p) :
    systemWrites (systemDumpRecords n p) = sysFields.map (systemDumpWrite n p) :=
  scanRecords_flatMap (fun _ _ => rfl) fun f _ => systemRecord_systemDumpRecord n hp f

/-- Every record of the per-channel dump of legal banks is recognised, in its order. -/
theorem channelWrites_channelDumpRecords (n : Numerics K) {ch : Vector (Channel K) 16}
    (hch : ∀ c : Fin 16, channelLegal ch[c]) :
    channelWrites (channelDumpRecords n ch) = channelRows.map (channelDumpWrite n ch) := by
  rw [channelDumpRecords_eq]
  exact scanRecords_flatMap (fun _ _ => rfl) fun row _ => channelRecord_channelDumpRecord n hch row

/-! ## A register after the writes of a dump -/

variable [IsStrictOrderedRing K] [FloorRing K]

/-- A system field after a list of writes in which each row has one value. -/
theorem readSys_applyWrites (v : SysField → Nat) (l : List SysField) (s : State K) (f : SysField) :
    readSys (applyWrites (l.map fun g => ⟨.sys g, 0, v g⟩) s).p f =
      if f ∈ l then decodeValue (sysTransform f) (v f) else readSys s.p f := by
  have hfold : (applyWrites (l.map fun g => ⟨.sys g, 0, v g⟩) s).p =
      l.foldl (fun q g => writeSys q g (decodeValue (sysTransform g) (v g))) s.p := by
    induction l generalizing s with
    | nil => rfl
    | cons g l ih => exact ih _
  rw [hfold, readSys_foldl_writeSys _ fun g => ofKind_decodeValue _ _]

/-- A channel field after a list of writes in which each row has one value. -/
theorem readCh_applyWrites (v : Fin 16 × ChField → Nat) (l : List (Fin 16 × ChField)) (s : State K) (c : Fin 16)
    (f : ChField) :
    readCh (applyWrites (l.map fun row => ⟨.ch row.2, row.1.val, v row⟩) s).ch[c] f =
      if (c, f) ∈ l then decodeValue (chTransform f) (v (c, f)) else readCh s.ch[c] f := by
  induction l generalizing s with
  | nil => rfl
  | cons row l ih =>
    obtain ⟨d, g⟩ := row
    rw [List.map_cons, applyWrites_cons, ih, applyWrite, writeField_ch_get]
    by_cases hl : (c, f) ∈ l
    · rw [if_pos hl, if_pos (List.mem_cons_of_mem _ hl)]
    rw [if_neg hl]
    by_cases hc : c = d
    · subst hc
      rw [if_pos rfl]
      by_cases hf : f = g
      · subst hf
        rw [if_pos List.mem_cons_self]
        exact readCh_writeCh_same _ f (ofKind_decodeValue _ _)
      · rw [if_neg (by simp [hf, hl])]
        exact readCh_writeCh_other _ hf _
    · rw [if_neg (Fin.val_ne_of_ne hc), if_neg (by simp [hc, hl])]

/-- The system dump of legal registers, applied to any state, restores every system field to within half a step. -/
theorem readSys_applied_systemDump {n : Numerics K} (hn : n.IsExact) {p : Params K} (hp : paramsLegal p) (s : State K)
    (f : SysField) :
    valueWithinStep (sysTransform f) (readSys (applyWrites (systemWrites (systemDumpRecords n p)) s).p f) (readSys p f) := by
  have hread : readSys (applyWrites (sysFields.map (systemDumpWrite n p)) s).p f =
      decodeValue (sysTransform f) (encodeValue n (sysTransform f) (readSys p f)) :=
    (readSys_applyWrites (fun g => encodeValue n (sysTransform g) (readSys p g)) sysFields s f).trans
      (if_pos (mem_sysFields f))
  rw [systemWrites_systemDumpRecords n hp, hread]
  exact valueWithinStep_decode_encode hn (sysTransform_proper f) (hp f)

/-- The per-channel dump of legal banks, applied to any state, restores every field of every bank to within half a step. -/
theorem readCh_applied_channelDump {n : Numerics K} (hn : n.IsExact) {ch : Vector (Channel K) 16}
    (hch : ∀ c : Fin 16, channelLegal ch[c]) (s : State K) (c : Fin 16) (f : ChField) :
    valueWithinStep (chTransform f) (readCh (applyWrites (channelWrites (channelDumpRecords n ch)) s).ch[c] f)
      (readCh ch[c] f) := by
  have hread : readCh (applyWrites (channelRows.map (channelDumpWrite n ch)) s).ch[c] f =
      decodeValue (chTransform f) (encodeValue n (chTransform f) (readCh ch[c] f)) :=
    (readCh_applyWrites (fun row => encodeValue n (chTransform row.2) (readCh ch[row.1] row.2)) channelRows s c f).trans
      (if_pos (mem_channelRows c f))
  rw [channelWrites_channelDumpRecords n hch, hread]
  exact valueWithinStep_decode_encode hn (chTransform_proper f) (hch c f)

end

/-! ## Round trips (40_protocol R192) -/

theorem exec_encSys (s : State) : exec .encSys s =
    .next (answer (.bytes (0x43 :: 0x7F :: 0x00 :: 0x03 :: systemDumpRecords Config.machine.num s.p)) s) := rfl

theorem exec_encChan (s : State) : exec .encChan s =
    .next (answer (.bytes (0x43 :: 0x7F :: 0x00 :: 0x04 :: channelDumpRecords Config.machine.num s.ch)) s) := rfl

/-- The result of ENC names its bytes. -/
theorem bytes_inj_of_answer {s t : State} {vendor : Byte} {out body : List Byte}
    (h : (.next (answer (.bytes (vendor :: out)) s) : Host.Outcome State Fault Refusal) =
      .next { t with result := some (.bytes (vendor :: body)) }) : body = out := by
  have hresult : (some (.bytes (vendor :: out)) : Option Result) = some (.bytes (vendor :: body)) :=
    congrArg State.result (Host.Outcome.next.inj h)
  simpa using hresult.symm

/-- Settles O28: fed back, the dump is the system framing with its own records. -/
theorem systemDumpRoundTrips : Obligations.SystemDumpRoundTrips := by
  intro s s' body hs h
  rw [exec_encSys] at h
  refine ⟨answer .ok (applyWrites (systemWrites (systemDumpRecords Config.machine.num s.p)) s'), ?_,
    applyWrites_systemWrites_ch _ s', applyWrites_rt _ s',
    readSys_applied_systemDump isExact_machine hs.params s'⟩
  rw [bytes_inj_of_answer h, sxInstr_bulkSystem]
  rfl

/-- Settles O29: fed back, the dump is the per-channel framing with its own records. -/
theorem channelDumpRoundTrips : Obligations.ChannelDumpRoundTrips := by
  intro s s' body hs h
  rw [exec_encChan] at h
  refine ⟨answer .ok (applyWrites (channelWrites (channelDumpRecords Config.machine.num s.ch)) s'), ?_,
    applyWrites_channelWrites_p _ s', applyWrites_rt _ s',
    readCh_applied_channelDump isExact_machine hs.banks s'⟩
  rw [bytes_inj_of_answer h, sxInstr_bulkChannel]
  rfl

end Sys2Proof.Machine
end

section
/-! Snapshot and reset, and the results of the commands (40_protocol R195 to R198): O30, O31, O32, O33. -/

namespace Sys2Proof.Machine

/-! ## SET (40_protocol R196) -/

section
variable {K : Type} [Field K] [LinearOrder K] [IsStrictOrderedRing K] [FloorRing K]

theorem legalParams_of_legal {p : Params K} (h : paramsLegal p) : legalParams p = p :=
  params_ext fun f => by rw [readSys_legalParams, legalValue_of_legal (h f)]

theorem legalChannel_of_legal {c : Channel K} (h : channelLegal c) : legalChannel c = c :=
  channel_ext fun f => by rw [readCh_legalChannel, legalValue_of_legal (h f)]

/-- SET clamps nothing of a legal snapshot. -/
theorem legalSnapshot_of_legal {snap : Snapshot K} (hp : paramsLegal snap.p)
    (hch : ∀ c : Fin 16, channelLegal snap.ch[c]) : legalSnapshot snap = snap := by
  have hbanks : (Vector.ofFn fun c : Fin 16 => legalChannel snap.ch[c]) = snap.ch :=
    Vector.ext fun i hi => by rw [Vector.getElem_ofFn]; exact legalChannel_of_legal (hch ⟨i, hi⟩)
  rw [legalSnapshot, legalParams_of_legal hp, hbanks]

end

/-- Settles O31: the fields that SET stores are those of `legalSnapshot`, which is the identity on a legal snapshot. -/
theorem setStoresLegalValues : Obligations.SetStoresLegalValues := by
  refine ⟨fun snap s => ⟨_, rfl, rfl, rfl, rfl, readSys_legalParams snap.p, fun c f => ?bank⟩, fun _ _ _ => rfl,
    fun _ => rfl, fun _ _ => rfl, fun _ => rfl, fun s h => ?roundTrip⟩
  case bank =>
    show readCh (Vector.ofFn _)[c] f = _
    rw [getElem_ofFn_fin, readCh_legalChannel]
  case roundTrip =>
    show Host.Outcome.next (answer .ok (storeSnapshot (legalSnapshot ⟨s.p, s.ch⟩) s)) = _
    rw [legalSnapshot_of_legal h.params h.banks]
    rfl

/-! ## GET and RST (40_protocol R195, R197) -/

section
variable {K : Type} [Zero K] [One K] [Add K] [Sub K] [Mul K] [Div K] [Neg K] [NatCast K] [IntCast K] [Max K] [Min K]
  [LT K] [DecidableLT K] [DecidableEq K]

/-- RST leaves the constructed state, but for what is still on the port. -/
theorem execFor_rst (cfg : Config K) (s : State K) :
    execFor cfg .rst s = .next { State.resetWith cfg with port := s.port, result := some .ok } := rfl

/-- PROC answers 16 frames or a contract error. -/
theorem processCommand_result (cfg : Config K) (frames : List (Stereo K)) (levels : List K) (s : State K) :
    (∃ out, (processCommand cfg frames levels s).result = some (.frames out)) ∨
      ∃ code, (processCommand cfg frames levels s).result = some (.error code) := by
  rcases processCommand_cases cfg frames levels s with ⟨code, -, h⟩ | ⟨-, h⟩ <;> rw [h]
  · exact .inr ⟨code, rfl⟩
  · exact .inl ⟨_, rfl⟩

end

section
variable {K : Type} [Zero K]

/-! ### The lines and slots of the reset state (10_state R74, R77) -/

theorem resetRuntime_comb (cfg : Config K) (k : Fin 8) : (resetRuntime cfg).rv.comb[k] = resetLine := by
  simp [resetRuntime]

theorem resetRuntime_allpass (cfg : Config K) (j : Fin 4) : (resetRuntime cfg).rv.ap[j] = resetLine := by
  simp [resetRuntime]

theorem resetRuntime_insertion (cfg : Config K) (c : Fin 16) : (resetRuntime cfg).insertion[c] = resetSlot cfg := by
  simp [resetRuntime]

theorem resetSlot_ext (cfg : Config K) (t : Fin 123) : (resetSlot cfg).ext[t] = cfg.ext.init (t.val + 5) :=
  getElem_ofFn_fin _ t

end

theorem exec_rst (s : State) : exec .rst s = .next { State.reset with port := s.port, result := some .ok } := rfl

/-- Settles O30: GET answers the registers, which after RST are those of the reset state. -/
theorem getReturnsTheSnapshot : Obligations.GetReturnsTheSnapshot := by
  refine ⟨fun s => rfl, fun s t h => ?_⟩
  rw [exec_rst] at h
  obtain rfl := Host.Outcome.next.inj h
  rfl

/-- Settles O32: RST by its equation, the writers of S by `Leaves.rt`, and the reset values of S ring by ring and slot by
slot. -/
theorem resetRestoresTheConstructedState : Obligations.ResetRestoresTheConstructedState := by
  refine ⟨exec_rst, fun K => execFor_rst, fun s t h => ?twice, fun i s t h hrt => ?writers, rfl, fun c => ?bank,
    ⟨rfl, rfl, fun _ _ => rfl⟩, ?runtime⟩
  case twice =>
    rw [exec_rst] at h
    obtain rfl := Host.Outcome.next.inj h
    rfl
  case writers =>
    rw [← execFor_machine] at h
    exact (leaves_of_execFor h).rt.resolve_left hrt
  case bank =>
    show (Vector.replicate 16 resetChannel)[c] = _
    rw [Fin.getElem_fin, Vector.getElem_replicate]
    rfl
  case runtime =>
    rintro K _ _ _ _ _ _ _ _ _ _ _ _ _ _ cfg rt (rfl : rt = resetRuntime cfg)
    refine ⟨fun _ => rfl, rfl, fun k i => ?_, fun j i => ?_, fun _ => ⟨rfl, rfl⟩, rfl, rfl, rfl, rfl, fun sl hsl => ?_⟩
    · rw [resetRuntime_comb]
      exact ⟨rfl, rfl⟩
    · rw [resetRuntime_allpass]
      exact ⟨rfl, rfl⟩
    · obtain rfl : sl = resetSlot cfg := by
        rcases hsl with rfl | ⟨c, rfl⟩
        · rfl
        · exact resetRuntime_insertion cfg c
      exact ⟨fun _ => ⟨rfl, rfl⟩, rfl, rfl, rfl, rfl, resetSlot_ext cfg⟩

/-! ## Results (40_protocol R198, 30_encoding R137) -/

/-- Settles O33: each command ends with `answer` and its own result, but PROC, whose two endings `processCommand_result`
gives. -/
theorem codecNeverReturnsAnError : Obligations.CodecNeverReturnsAnError := by
  intro i s
  obtain ⟨t, ht, hleaves⟩ := execFor_leaves Config.machine i s
  refine ⟨t, (execFor_machine i s).symm.trans ht, ?_⟩
  cases hleaves with
  | row f ch vH vL =>
    cases f with
    | sys f => cases f <;> rfl
    | ch f => cases f <;> rfl
  | encSys | encChan | get => exact ⟨_, rfl⟩
  | proc frames levels => exact processCommand_result Config.machine frames levels s
  | pu | sx | sxParamChange | sxBulkSystem | sxBulkChannel | set | rst => rfl

end Sys2Proof.Machine
end

section
/-! The active set, the slots and their bypasses, and one frame of PROC (41_mixing R220 to R230, 43_registry R277): O43, O44,
O42. -/

namespace Sys2Proof.Machine

/-! ## The active set (41_mixing R222) -/

section
variable {K : Type} [Zero K] [One K] [Add K] [Sub K] [Mul K] [Div K] [Neg K] [NatCast K] [IntCast K] [Max K] [Min K]
  [LT K] [DecidableLT K] [DecidableEq K] {ch : Vector (Channel K) 16}

theorem isActive_of_anySolo (h : ∃ d : Fin 16, ch[d].solo = true) (bank : Channel K) : isActive ch bank = bank.solo :=
  if_pos ((anySolo_iff ch).2 h)

theorem isActive_of_no_solo (h : ∀ d : Fin 16, ch[d].solo = false) (bank : Channel K) : isActive ch bank = !bank.mute := by
  have hnone : ¬ anySolo ch = true := fun hany => by
    obtain ⟨d, hd⟩ := (anySolo_iff ch).1 hany
    rw [h d] at hd
    cases hd
  exact if_neg hnone

end

/-- Settles O43: whether any channel is soloed decides which flag of the channel's own bank counts. -/
theorem activeSetFollowsSoloAndMute : Obligations.ActiveSetFollowsSoloAndMute := by
  intro K _ _ _ _ _ _ _ _ _ _ _ _ _ _ ch c
  exact ⟨fun h => isActive_of_anySolo h ch[c], fun h => isActive_of_no_solo h ch[c]⟩

/-! ## The slots and their bypasses (41_mixing R223, 43_registry R277) -/

section
variable {K : Type} [Zero K] [One K] [Add K] [Sub K] [Mul K] [Div K] [Neg K] [NatCast K] [IntCast K] [Max K] [Min K]
  [LT K] [DecidableLT K] [DecidableEq K] (cfg : Config K)

theorem insertionStage_of_sent {bank : Channel K} (hsend : 0 < bank.insertionSend) (hon : bank.insBypass = false)
    (slot : Slot K) (x : Stereo K) :
    insertionStage cfg bank slot x =
      (scaleFrame bank.insertionSend (fxInsertion cfg bank slot x).1, (fxInsertion cfg bank slot x).2) :=
  if_pos ⟨hsend, hon⟩

theorem insertionStage_of_dry {bank : Channel K} (h : ¬ 0 < bank.insertionSend ∨ bank.insBypass = true) (slot : Slot K)
    (x : Stereo K) : insertionStage cfg bank slot x = (x, slot) := by
  refine if_neg fun ⟨hsend, hon⟩ => ?_
  rcases h with hdry | hbypass
  · exact hdry hsend
  · rw [hon] at hbypass
    cases hbypass

theorem fxVariation_of_bypass {p : VariationParams K} (h : p.bypass = true) (slot : Slot K) (x : Stereo K) :
    fxVariation cfg p slot x = (silence, slot) := if_pos h

theorem fxVariation_of_on {p : VariationParams K} (h : p.bypass = false) (slot : Slot K) (x : Stereo K) :
    fxVariation cfg p slot x = slotRun cfg slot p.typeId ⟨p.param1, p.param2, p.param3, p.param4⟩ p.level x :=
  if_neg (Bool.eq_false_iff.1 h)

end

/-- Settles O44: the two branches of the insertion stage, and those of the variation. -/
theorem bypassedSlotsDoNotRun : Obligations.BypassedSlotsDoNotRun := by
  intro K _ _ _ _ _ _ _ _ _ _ _ _ _ _ cfg bank p slot x
  refine ⟨fun hsend hon y hy => ?sent, fun h => insertionStage_of_dry cfg h slot x,
    fun h => fxVariation_of_bypass cfg h slot x, fun h => fxVariation_of_on cfg h slot x⟩
  case sent =>
    rw [insertionStage_of_sent cfg hsend hon, hy]
    rfl

/-! ## Channel outputs (41_mixing R226 to R229) -/

section
variable {K : Type} [One K] [Add K] [Sub K] [Mul K] {cfg : Config K}

theorem channelOut_monoSum (h : cfg.panMode = .monoSum) (p : Params K) (bank : Channel K)
    (ins sys : Stereo K) :
    channelOut cfg p bank ins sys =
      ⟨p.global.masterLevel * (panGainL bank * ((returnMix bank ins sys).l + (returnMix bank ins sys).r)),
        p.global.masterLevel * (panGainR bank * ((returnMix bank ins sys).l + (returnMix bank ins sys).r))⟩ := by
  simp only [channelOut, panFrame, h, scaleFrame]

theorem channelOut_perSide (h : cfg.panMode = .perSide) (p : Params K) (bank : Channel K)
    (ins sys : Stereo K) :
    channelOut cfg p bank ins sys =
      ⟨p.global.masterLevel * (panGainL bank * (returnMix bank ins sys).l),
        p.global.masterLevel * (panGainR bank * (returnMix bank ins sys).r)⟩ := by
  simp only [channelOut, panFrame, h, scaleFrame]

end

/-! ## The insertion slots and the system stage (41_mixing R220, R225) -/

section
variable {K : Type} [Zero K] [One K] [Add K] [Sub K] [Mul K] [Div K] [Neg K] [NatCast K] [IntCast K] [Max K] [Min K]
  [LT K] [DecidableLT K] [DecidableEq K] (cfg : Config K)

theorem channelInsertion_of_active {ch : Vector (Channel K) 16} {c : Fin 16} (h : isActive ch ch[c] = true)
    (slots : Vector (Slot K) 16) (frames : List (Stereo K)) :
    channelInsertion cfg ch slots frames c = insertionStage cfg ch[c] slots[c] (inputFrame frames c.val) := if_pos h

theorem channelInsertion_of_inactive {ch : Vector (Channel K) 16} {c : Fin 16} (h : isActive ch ch[c] = false)
    (slots : Vector (Slot K) 16) (frames : List (Stereo K)) :
    channelInsertion cfg ch slots frames c = (silence, slots[c]) := if_neg (Bool.eq_false_iff.1 h)

/-- The system stage runs only where it is not bypassed and a channel is active (41_mixing R225). -/
theorem systemStage_of_idle {p : Params K} {ch : Vector (Channel K) 16}
    (h : p.global.bypass = true ∨ ∀ c : Fin 16, isActive ch ch[c] = false) (bus : K) (rt : Runtime K) :
    systemStage cfg p ch bus rt = (silence, rt) := by
  refine if_neg fun ⟨hon, hany⟩ => ?_
  rcases h with hbypass | hnone
  · rw [hon] at hbypass
    cases hbypass
  · obtain ⟨c, hc⟩ := (anyActive_iff ch).1 hany
    rw [hnone c] at hc
    cases hc

theorem systemStage_of_running {p : Params K} {ch : Vector (Channel K) 16} (hon : p.global.bypass = false)
    (hany : ∃ c : Fin 16, isActive ch ch[c] = true) (bus : K) (rt : Runtime K) :
    systemStage cfg p ch bus rt = route cfg p ⟨bus, bus⟩ rt := if_pos ⟨hon, (anyActive_iff ch).2 hany⟩

/-! ## The frame (41_mixing R220, R230) -/

variable (p : Params K) (ch : Vector (Channel K) 16) (frames : List (Stereo K)) (levels : List K) (rt : Runtime K)

/-- The runtime state between the insertion slots and the system stage of a frame. -/
def afterInsertion : Runtime K :=
  { rt with insertion := Vector.ofFn fun c => (channelInsertion cfg ch rt.insertion frames c).2 }

@[simp] theorem afterInsertion_rv : (afterInsertion cfg ch frames rt).rv = rt.rv := rfl

@[simp] theorem afterInsertion_chorus : (afterInsertion cfg ch frames rt).chorus = rt.chorus := rfl

@[simp] theorem afterInsertion_eqState : (afterInsertion cfg ch frames rt).eq = rt.eq := rfl

@[simp] theorem afterInsertion_variation : (afterInsertion cfg ch frames rt).variation = rt.variation := rfl

/-- The system stage of a frame: its signal, and the runtime state after the frame. -/
def frameSystem : Stereo K × Runtime K :=
  systemStage cfg p ch (systemBus ch frames levels) (afterInsertion cfg ch frames rt)

theorem processFrame_rt : (processFrame cfg p ch frames levels rt).rt = (frameSystem cfg p ch frames levels rt).2 := rfl

/-- The system stage has the insertion slots of the state after the frame. -/
theorem afterInsertion_eq : afterInsertion cfg ch frames rt =
    { rt with insertion := (processFrame cfg p ch frames levels rt).rt.insertion } := by
  rw [processFrame_insertion, afterInsertion]

variable {ch} {c : Fin 16}

theorem processFrame_out_of_active (h : isActive ch ch[c] = true) :
    (processFrame cfg p ch frames levels rt).out[c] =
      channelOut cfg p ch[c] (insertionStage cfg ch[c] rt.insertion[c] (inputFrame frames c.val)).1
        (frameSystem cfg p ch frames levels rt).1 := by
  rw [processFrame_out, if_pos h, channelInsertion_of_active cfg h]
  rfl

theorem processFrame_out_of_inactive (h : isActive ch ch[c] = false) :
    (processFrame cfg p ch frames levels rt).out[c] = silence := by
  rw [processFrame_out, if_neg (Bool.eq_false_iff.1 h)]

theorem processFrame_slot_of_active (h : isActive ch ch[c] = true) :
    (processFrame cfg p ch frames levels rt).rt.insertion[c] =
      (insertionStage cfg ch[c] rt.insertion[c] (inputFrame frames c.val)).2 := by
  rw [processFrame_insertion, getElem_ofFn_fin, channelInsertion_of_active cfg h]

theorem processFrame_slot_of_inactive (h : isActive ch ch[c] = false) :
    (processFrame cfg p ch frames levels rt).rt.insertion[c] = rt.insertion[c] := by
  rw [processFrame_insertion, getElem_ofFn_fin, channelInsertion_of_inactive cfg h]

/-! ## PROC with correct counts -/

theorem execFor_proc (s : State K) :
    execFor cfg (.proc frames levels) s = .next (processCommand cfg frames levels s) := rfl

/-- PROC answers the outputs of one frame and keeps its runtime state. -/
theorem processCommand_of_counts {frames : List (Stereo K)} {levels : List K} (hF : frames.length = 16)
    (hL : levels.length = 0 ∨ levels.length = 16) (s : State K) :
    processCommand cfg frames levels s =
      answer (.frames (processFrame cfg s.p s.ch frames levels s.rt).out)
        { s with rt := (processFrame cfg s.p s.ch frames levels s.rt).rt } := by
  have hnone := checkContract_eq_none.2 ⟨hF, hL⟩
  rcases processCommand_cases cfg frames levels s with ⟨code, hcode, -⟩ | ⟨-, h⟩
  · rw [hnone] at hcode
    cases hcode
  · exact h

end

/-- Settles O42: PROC is one frame (`processCommand_of_counts`), whose outputs and slots are read channel by channel and whose
system signal is that of `frameSystem`. -/
theorem procMixesEveryChannel : Obligations.ProcMixesEveryChannel := by
  refine ⟨?block, rfl, fun frames levels s _ _ => ⟨_, rfl, execFor_machine _ s⟩⟩
  intro K _ _ _ _ _ _ _ _ _ _ _ _ _ _ cfg frames levels s hF hL
  refine ⟨processCommand cfg frames levels s, (processFrame cfg s.p s.ch frames levels s.rt).out,
    (frameSystem cfg s.p s.ch frames levels s.rt).1, systemBus s.ch frames levels, execFor_proc cfg frames levels s, ?_⟩
  rw [processCommand_of_counts cfg hF hL]
  refine ⟨rfl, rfl, rfl, rfl, rfl, fun c hc => ⟨?out, ?slot⟩, fun c y gL gR hc hy hgL hgR => ⟨?insertion, ?mono, ?sides⟩,
    fun hidle => ?idle, fun hon hany => ?running⟩
  case out => exact processFrame_out_of_inactive cfg s.p frames levels s.rt hc
  case slot => exact processFrame_slot_of_inactive cfg s.p frames levels s.rt hc
  case insertion => exact processFrame_slot_of_active cfg s.p frames levels s.rt hc
  case mono =>
    intro hmode
    rw [processFrame_out_of_active cfg s.p frames levels s.rt hc, channelOut_monoSum hmode, hy, hgL, hgR]
    exact ⟨rfl, rfl⟩
  case sides =>
    intro hmode
    rw [processFrame_out_of_active cfg s.p frames levels s.rt hc, channelOut_perSide hmode, hy, hgL, hgR]
    exact ⟨rfl, rfl⟩
  case idle =>
    rw [answer_rt, processFrame_rt, frameSystem, systemStage_of_idle cfg hidle]
    exact ⟨rfl, afterInsertion_rv cfg s.ch frames s.rt, afterInsertion_chorus cfg s.ch frames s.rt,
      afterInsertion_eqState cfg s.ch frames s.rt, afterInsertion_variation cfg s.ch frames s.rt⟩
  case running =>
    rw [answer_rt, ← afterInsertion_eq, ← systemStage_of_running cfg hon hany, processFrame_rt, ← frameSystem]

end Sys2Proof.Machine
end

section
/-! Silence (41_mixing R233): O45. -/

namespace Sys2Proof.Machine

section
variable {K : Type} [Field K]

/-! ## Silent frames -/

@[simp] theorem scaleFrame_silence (k : K) : scaleFrame k (silence : Stereo K) = silence := by
  simp only [scaleFrame, silence, mul_zero]

@[simp] theorem addFrame_silence : addFrame silence (silence : Stereo K) = silence := by
  simp only [addFrame, silence, add_zero]

theorem inputFrame_replicate_silence (n c : Nat) : inputFrame (List.replicate n (silence : Stereo K)) c = silence := by
  rw [inputFrame, List.getD_eq_getElem?_getD, List.getElem?_getD_replicate_default_eq]

/-- Neither pan mode makes sound of silence. -/
theorem channelOut_silence (cfg : Config K) (p : Params K) (bank : Channel K) :
    channelOut cfg p bank silence silence = silence := by
  have hmix : returnMix bank silence silence = silence := by rw [returnMix, scaleFrame_silence, addFrame_silence]
  have hpan : panFrame cfg bank silence = silence := by
    unfold panFrame
    split <;> simp only [silence, add_zero, mul_zero]
  rw [channelOut, hmix, hpan, scaleFrame_silence]

/-- A filter whose state is 0 answers 0 to 0 and stays as it is (42_routing_eq R256). -/
theorem biquad_quiet (c : Coeffs K) : biquad c resetBiquad 0 = (0, resetBiquad) := by
  simp only [biquad, resetBiquad, mul_zero, add_zero, sub_zero]

/-! ## What is quiet, effect by effect -/

/-- The rings of the reverb are 0. -/
structure ReverbQuiet (rv : ReverbState K) : Prop where
  predelay : rv.pd.buf = emptyRing
  comb : ∀ k : Fin 8, rv.comb[k].buf = emptyRing
  allpass : ∀ j : Fin 4, rv.ap[j].buf = emptyRing

/-- The lines of the chorus are 0. -/
structure ChorusQuiet (st : ChorusState K) : Prop where
  bufL : st.bufL = emptyRing
  bufR : st.bufR = emptyRing

theorem runtimeQuiet_iff (rt : Runtime K) :
    RuntimeQuiet rt ↔ ReverbQuiet rt.rv ∧ ChorusQuiet rt.chorus ∧ rt.eq = ⟨resetEqSide, resetEqSide⟩ ∧
      slotQuiet rt.variation ∧ ∀ c : Fin 16, slotQuiet rt.insertion[c] := by
  constructor
  · intro h
    exact ⟨⟨h.predelay, h.comb, h.allpass⟩, ⟨h.chorusL, h.chorusR⟩, h.eq, h.variation, h.insertion⟩
  · rintro ⟨hrv, hchorus, heq, hvar, hins⟩
    exact ⟨hrv.predelay, hrv.comb, hrv.allpass, hchorus.bufL, hchorus.bufR, heq, hvar, hins⟩

variable [LinearOrder K]

/-- A ring of zeros stays one where a 0 is written. -/
theorem ringWrite_zero_of_quiet (cap : Nat) {b : RingMemory K} (h : b = emptyRing) (i : Int) :
    ringWrite cap b i 0 = emptyRing := by
  rw [h]
  exact ringWrite_zero_emptyRing cap i

/-- The variation, where it runs, runs a type of the block (43_registry R271). -/
def VariationInBlock (p : VariationParams K) : Prop := p.bypass = true ∨ (0 ≤ p.typeId ∧ p.typeId ≤ 4)

/-- The insertion effect of a channel, where it runs, runs a type of the block. -/
def InsertionInBlock (bank : Channel K) : Prop :=
  bank.insBypass = true ∨ bank.insertionSend ≤ 0 ∨ (0 ≤ bank.insType ∧ bank.insType ≤ 4)

theorem onlyBlockTypes_iff (p : Params K) (ch : Vector (Channel K) 16) :
    OnlyBlockTypes p ch ↔ VariationInBlock p.variation ∧ ∀ c : Fin 16, InsertionInBlock ch[c] := Iff.rfl

/-! ## The equalizer from its reset state (42_routing_eq R257) -/

variable (cfg : Config K)

theorem equalize_quiet (p : EqParams K) :
    equalize cfg p ⟨resetEqSide, resetEqSide⟩ silence = (silence, ⟨resetEqSide, resetEqSide⟩) := by
  have hside : eqSide cfg p resetEqSide 0 = (0, resetEqSide) := by simp only [eqSide, resetEqSide, biquad_quiet]
  simp only [equalize, silence, hside]

/-! ## The lines of the reverb (44_reverb R295 to R300) -/

theorem predelay_quiet (p : ReverbParams K) {pd : Line K} (h : pd.buf = emptyRing) :
    (predelay cfg p pd 0).1 = 0 ∧ (predelay cfg p pd 0).2.buf = emptyRing := by
  have hbuf := ringWrite_zero_of_quiet cfg.pdCap h pd.w
  refine ⟨?_, hbuf⟩
  rw [predelay, hbuf]
  rfl

theorem combStep_quiet (p : ReverbParams K) (k : Nat) {line : Line K} (h : line.buf = emptyRing) :
    (combStep cfg p k line 0).1 = 0 ∧ (combStep cfg p k line 0).2.buf = emptyRing := by
  have hread : delayRead cfg.combCap line.buf line.w (combLength cfg p k) = 0 := by rw [h]; rfl
  refine ⟨hread, ?_⟩
  rw [combStep, hread, mul_zero, add_zero]
  exact ringWrite_zero_of_quiet _ h _

theorem combLane_quiet (p : ReverbParams K) {comb : Vector (Line K) 8} {k : Fin 8} (h : comb[k].buf = emptyRing) :
    (combLane cfg p comb 0 k).1 = 0 ∧ (combLane cfg p comb 0 k).2.buf = emptyRing := by
  unfold combLane
  split
  · exact combStep_quiet cfg p k.val h
  · exact ⟨rfl, h⟩

theorem allpassStep_quiet (j : Fin 4) {line : Line K} (h : line.buf = emptyRing) :
    (allpassStep cfg j line 0).1 = 0 ∧ (allpassStep cfg j line 0).2.buf = emptyRing := by
  have hread : ringRead cfg.apLen[j] line.buf line.w = 0 := by rw [h]; rfl
  simp only [allpassStep, hread, mul_zero, sub_zero, add_zero, true_and]
  exact ringWrite_zero_of_quiet _ h _

theorem allpassCascade_quiet {ap : Vector (Line K) 4} (h : ∀ j : Fin 4, ap[j].buf = emptyRing) :
    (allpassCascade cfg ap 0).1 = 0 ∧ ∀ j : Fin 4, (allpassCascade cfg ap 0).2[j].buf = emptyRing := by
  obtain ⟨h0, hbuf0⟩ := allpassStep_quiet cfg 0 (line := ap[0]) (h 0)
  obtain ⟨h1, hbuf1⟩ := allpassStep_quiet cfg 1 (line := ap[1]) (h 1)
  obtain ⟨h2, hbuf2⟩ := allpassStep_quiet cfg 2 (line := ap[2]) (h 2)
  obtain ⟨h3, hbuf3⟩ := allpassStep_quiet cfg 3 (line := ap[3]) (h 3)
  simp only [allpassCascade, h0, h1, h2, h3, true_and]
  intro j
  match j with
  | 0 => exact hbuf0
  | 1 => exact hbuf1
  | 2 => exact hbuf2
  | 3 => exact hbuf3

/-! ## Sums and levels: the bus, the combs and the reverb -/

variable [IsStrictOrderedRing K]

@[simp] theorem levelOf_silence : levelOf (silence : Stereo K) = 0 := by
  simp only [levelOf_eq, silence, abs_zero, max_self]

variable [FloorRing K]

theorem sumInOrder_map_eq_zero {α : Type} (l : List α) {f : α → K} (h : ∀ x, f x = 0) : sumInOrder (l.map f) = 0 := by
  rw [sumInOrder_eq_sum]
  exact List.sum_eq_zero (List.forall_mem_map.2 fun x _ => h x)

/-- Silent frames put nothing on the bus, whatever the levels are. -/
theorem systemBus_silence (ch : Vector (Channel K) 16) (n : Nat) (levels : List K) :
    systemBus ch (List.replicate n silence) levels = 0 := by
  refine sumInOrder_map_eq_zero _ fun c => ?_
  rw [channelShare, inputFrame_replicate_silence]
  split
  · simp only [busShare, silence, add_zero, mul_zero]
  · rfl

theorem combBank_quiet (p : ReverbParams K) {comb : Vector (Line K) 8} (h : ∀ k : Fin 8, comb[k].buf = emptyRing) :
    (combBank cfg p comb 0).1 = 0 ∧ ∀ k : Fin 8, (combBank cfg p comb 0).2[k].buf = emptyRing := by
  refine ⟨sumInOrder_map_eq_zero _ fun k => (combLane_quiet cfg p (h k)).1, fun k => ?_⟩
  rw [combBank, getElem_ofFn_fin]
  exact (combLane_quiet cfg p (h k)).2

theorem fxReverb_quiet (p : ReverbParams K) {rv : ReverbState K} (h : ReverbQuiet rv) :
    (fxReverb cfg p rv silence).1 = silence ∧ ReverbQuiet (fxReverb cfg p rv silence).2 := by
  obtain ⟨hpd, hpdBuf⟩ := predelay_quiet cfg p h.predelay
  obtain ⟨hcomb, hcombBuf⟩ := combBank_quiet cfg p h.comb
  obtain ⟨hap, hapBuf⟩ := allpassCascade_quiet cfg h.allpass
  have hmono : ((silence : Stereo K).l + (silence : Stereo K).r) / 2 = 0 := by simp only [silence, add_zero, zero_div]
  simp only [fxReverb, hmono, hpd, hcomb, hap, mul_zero]
  exact ⟨rfl, hpdBuf, hcombBuf, hapBuf⟩

/-! ## Modulated delay lines (45_chorus_moddelay R326 to R332) -/

theorem fracRead_of_quiet (n : Numerics K) (cap w : Nat) (d : K) {b : RingMemory K} (h : b = emptyRing) :
    fracRead n cap b w d = 0 := by
  rw [h]
  exact fracRead_emptyRing n cap w d

theorem fxChorus_quiet (p : ChorusParams K) {st : ChorusState K} (h : ChorusQuiet st) :
    (fxChorus cfg p st silence).1 = silence ∧ ChorusQuiet (fxChorus cfg p st silence).2 := by
  simp only [fxChorus, fracRead_of_quiet _ _ _ _ h.bufL, fracRead_of_quiet _ _ _ _ h.bufR, chorusBlend, silence,
    mul_zero, add_zero, true_and]
  exact ⟨ringWrite_zero_of_quiet _ h.bufL _, ringWrite_zero_of_quiet _ h.bufR _⟩

theorem procFlanger_quiet (p : GenericParams K) {st : FlangerState K} (hL : st.bufL = emptyRing)
    (hR : st.bufR = emptyRing) :
    (procFlanger cfg silence p st).1 = silence ∧
      (procFlanger cfg silence p st).2.bufL = emptyRing ∧ (procFlanger cfg silence p st).2.bufR = emptyRing := by
  simp only [procFlanger, fracRead_of_quiet _ _ _ _ hL, fracRead_of_quiet _ _ _ _ hR, silence, mul_zero, add_zero,
    true_and]
  exact ⟨ringWrite_zero_of_quiet _ hL _, ringWrite_zero_of_quiet _ hR _⟩

/-! ## The dynamics (46_dynamics R354, R356) -/

theorem procCompressor_quiet (p : GenericParams K) : procCompressor cfg silence p ⟨0⟩ = (silence, ⟨0⟩) := by
  have henv : compressorEnv cfg silence p 0 = 0 := by rw [compressorEnv, levelOf_silence, follow_self]
  rw [procCompressor_eq, henv, scaleFrame_silence]

variable {cfg} (hpow : ∀ x : K, 0 ≤ cfg.num.pow10 x)
include hpow

/-- No threshold is negative, so silence does not open a gate. -/
theorem procGate_quiet (p : GenericParams K) : procGate cfg silence p ⟨0, 0⟩ = (silence, ⟨0, 0⟩) := by
  have hclosed : levelOf silence ≤ gateThreshold cfg p.p1 := by
    rw [levelOf_silence, gateThreshold_eq]
    exact hpow _
  rw [procGate_of_closing cfg hclosed, scaleFrame_silence, zero_mul]

/-! ## Slots (43_registry R271, R273, R277; 41_mixing R223) -/

/-- A processor of the block (type ids 0 to 4) keeps a quiet slot quiet. -/
theorem runProcessor_quiet {t : Int} (h0 : 0 ≤ t) (h4 : t ≤ 4) (p : GenericParams K) {slot : Slot K}
    (h : slotQuiet slot) :
    (runProcessor cfg t silence p slot).1 = silence ∧ slotQuiet (runProcessor cfg t silence p slot).2 := by
  obtain ⟨hL, hR, hcomp, hgate⟩ := h
  have hids : t = 0 ∨ t = 1 ∨ t = 2 ∨ t = 3 ∨ t = 4 := by omega
  rcases hids with rfl | rfl | rfl | rfl | rfl
  · exact ⟨rfl, hL, hR, hcomp, hgate⟩
  · obtain ⟨hout, hL', hR'⟩ := procFlanger_quiet cfg p hL hR
    exact ⟨hout, hL', hR', hcomp, hgate⟩
  · exact ⟨rfl, hL, hR, hcomp, hgate⟩
  · have hrun : procCompressor cfg silence p slot.compressor = (silence, ⟨0⟩) := by
      rw [hcomp, procCompressor_quiet]
    exact ⟨congrArg Prod.fst hrun, hL, hR, congrArg Prod.snd hrun, hgate⟩
  · have hrun : procGate cfg silence p slot.gate = (silence, ⟨0, 0⟩) := by rw [hgate, procGate_quiet hpow]
    exact ⟨congrArg Prod.fst hrun, hL, hR, hcomp, congrArg Prod.snd hrun⟩

theorem slotRun_quiet {t : Int} (h0 : 0 ≤ t) (h4 : t ≤ 4) (p : GenericParams K) (level : K) {slot : Slot K}
    (h : slotQuiet slot) :
    (slotRun cfg slot t p level silence).1 = silence ∧ slotQuiet (slotRun cfg slot t p level silence).2 := by
  obtain ⟨hout, hslot⟩ := runProcessor_quiet hpow h0 h4 p h
  refine ⟨?_, hslot⟩
  rw [slotRun, hout, scaleFrame_silence]

theorem fxVariation_quiet {p : VariationParams K} (hp : VariationInBlock p) {slot : Slot K} (h : slotQuiet slot) :
    (fxVariation cfg p slot silence).1 = silence ∧ slotQuiet (fxVariation cfg p slot silence).2 := by
  cases hb : p.bypass with
  | true =>
    rw [fxVariation_of_bypass cfg hb]
    exact ⟨rfl, h⟩
  | false =>
    obtain ⟨h0, h4⟩ := hp.resolve_left (Bool.eq_false_iff.1 hb)
    rw [fxVariation_of_on cfg hb]
    exact slotRun_quiet hpow h0 h4 _ _ h

theorem insertionStage_quiet {bank : Channel K} (hbank : InsertionInBlock bank) {slot : Slot K} (h : slotQuiet slot) :
    (insertionStage cfg bank slot silence).1 = silence ∧ slotQuiet (insertionStage cfg bank slot silence).2 := by
  by_cases hrun : 0 < bank.insertionSend ∧ bank.insBypass = false
  · obtain ⟨hsend, hon⟩ := hrun
    obtain ⟨h0, h4⟩ := (hbank.resolve_left (Bool.eq_false_iff.1 hon)).resolve_left hsend.not_ge
    obtain ⟨hout, hslot⟩ : (fxInsertion cfg bank slot silence).1 = silence ∧
        slotQuiet (fxInsertion cfg bank slot silence).2 := slotRun_quiet hpow h0 h4 _ _ h
    rw [insertionStage_of_sent cfg hsend hon, hout, scaleFrame_silence]
    exact ⟨rfl, hslot⟩
  · rw [not_and_or, Bool.not_eq_false] at hrun
    rw [insertionStage_of_dry cfg hrun]
    exact ⟨rfl, h⟩

theorem channelInsertion_quiet {ch : Vector (Channel K) 16} {c : Fin 16} (hbank : InsertionInBlock ch[c])
    {slots : Vector (Slot K) 16} (h : slotQuiet slots[c]) (n : Nat) :
    (channelInsertion cfg ch slots (List.replicate n silence) c).1 = silence ∧
      slotQuiet (channelInsertion cfg ch slots (List.replicate n silence) c).2 := by
  rw [channelInsertion, inputFrame_replicate_silence]
  split
  · exact insertionStage_quiet hpow hbank h
  · exact ⟨rfl, h⟩

/-! ## Route and the system stage (42_routing_eq R240, 41_mixing R225) -/

variable {p : Params K} (hvar : VariationInBlock p.variation)
include hvar

theorem effectStep_quiet (e : Effect) {rt : Runtime K} (h : RuntimeQuiet rt) :
    (effectStep cfg p e silence rt).1 = silence ∧ RuntimeQuiet (effectStep cfg p e silence rt).2 := by
  rw [runtimeQuiet_iff] at h ⊢
  obtain ⟨hrv, hchorus, heq, hslot, hins⟩ := h
  cases e with
  | reverb =>
    obtain ⟨hout, hrv'⟩ := fxReverb_quiet cfg p.reverb hrv
    exact ⟨hout, hrv', hchorus, heq, hslot, hins⟩
  | chorus =>
    obtain ⟨hout, hchorus'⟩ := fxChorus_quiet cfg p.chorus hchorus
    exact ⟨hout, hrv, hchorus', heq, hslot, hins⟩
  | variation =>
    obtain ⟨hout, hslot'⟩ := fxVariation_quiet hpow hvar hslot
    exact ⟨hout, hrv, hchorus, heq, hslot', hins⟩

/-- From silent signals and a quiet state, a turn of Route gives them again, whatever its send is. -/
theorem routeStage_quiet (e : Effect) (send : K) {rt : Runtime K} (h : RuntimeQuiet rt) :
    ∃ rt', routeStage cfg p e send ⟨silence, silence, rt⟩ = ⟨silence, silence, rt'⟩ ∧ RuntimeQuiet rt' := by
  obtain ⟨hout, hrt⟩ := effectStep_quiet hpow hvar e h
  refine ⟨_, ?_, hrt⟩
  simp only [routeStage, scaleFrame_silence, ite_self, hout, addFrame_silence]

theorem route_quiet {rt : Runtime K} (h : RuntimeQuiet rt) :
    (route cfg p silence rt).1 = silence ∧ RuntimeQuiet (route cfg p silence rt).2 := by
  have hstage := fun e send rt => routeStage_quiet hpow hvar e send (rt := rt)
  have heffects : ∃ rt', routeEffects cfg p silence rt = ⟨silence, silence, rt'⟩ ∧ RuntimeQuiet rt' := by
    obtain ⟨rt0, e0, h0⟩ := hstage _ _ _ h
    obtain ⟨rt1, e1, h1⟩ := hstage _ _ _ h0
    rw [routeEffects, e0, e1]
    exact hstage _ _ _ h1
  obtain ⟨rt', he, hrt⟩ := heffects
  rw [route, he, hrt.eq, equalize_quiet]
  exact ⟨rfl, { hrt with eq := rfl }⟩

theorem systemStage_quiet (ch : Vector (Channel K) 16) {rt : Runtime K} (h : RuntimeQuiet rt) :
    (systemStage cfg p ch 0 rt).1 = silence ∧ RuntimeQuiet (systemStage cfg p ch 0 rt).2 := by
  unfold systemStage
  split
  · exact route_quiet hpow hvar h
  · exact ⟨rfl, h⟩

end

/-! ## The frame (41_mixing R220, R233) -/

section
variable {K : Type} [Field K] [LinearOrder K] [IsStrictOrderedRing K] [FloorRing K] {cfg : Config K}

/-- A frame of silent input from a quiet runtime state is silent, and leaves one. -/
theorem processFrame_quiet (hpow : ∀ x : K, 0 ≤ cfg.num.pow10 x) {p : Params K} {ch : Vector (Channel K) 16}
    (htypes : OnlyBlockTypes p ch) (levels : List K) {rt : Runtime K} (h : RuntimeQuiet rt) :
    (∀ c : Fin 16, (processFrame cfg p ch (List.replicate 16 silence) levels rt).out[c] = silence) ∧
      RuntimeQuiet (processFrame cfg p ch (List.replicate 16 silence) levels rt).rt := by
  obtain ⟨hvar, hbanks⟩ := (onlyBlockTypes_iff p ch).1 htypes
  have hins := fun c : Fin 16 => channelInsertion_quiet hpow (hbanks c) (h.insertion c) 16
  have hafter : RuntimeQuiet (afterInsertion cfg ch (List.replicate 16 silence) rt) := by
    refine { h with insertion := fun c => ?_ }
    rw [afterInsertion, getElem_ofFn_fin]
    exact (hins c).2
  obtain ⟨hsys, hrt⟩ : (frameSystem cfg p ch (List.replicate 16 silence) levels rt).1 = silence ∧
      RuntimeQuiet (frameSystem cfg p ch (List.replicate 16 silence) levels rt).2 := by
    rw [frameSystem, systemBus_silence]
    exact systemStage_quiet hpow hvar ch hafter
  refine ⟨fun c => ?_, hrt⟩
  cases hc : isActive ch ch[c] with
  | true =>
    rw [processFrame_out_of_active cfg p _ levels rt hc, ← channelInsertion_of_active cfg hc, (hins c).1, hsys,
      channelOut_silence]
  | false => exact processFrame_out_of_inactive cfg p _ levels rt hc

end

/-- Settles O45: `processFrame_quiet`, whose hypothesis on 10^x the reference block meets. -/
theorem silenceStaysSilent : Obligations.SilenceStaysSilent :=
  ⟨fun _ _ _ _ _ _ _ _ levels _ hpow htypes h => processFrame_quiet hpow htypes levels h,
    fun _ _ _ _ levels _ htypes h =>
      processFrame_quiet (fun x => Real.rpow_nonneg (by norm_num) x) htypes levels h⟩

end Sys2Proof.Machine
end

section
/-! Route: O47, O48. -/

namespace Sys2Proof.Machine

/-! ## One turn of Route (42_routing_eq R243, R244) -/

section
variable {K : Type} [Zero K] [One K] [Add K] [Sub K] [Mul K] [Div K] [Neg K] [NatCast K] [IntCast K] [Max K] [Min K]
  [LT K] [DecidableLT K] [DecidableEq K] (cfg : Config K) (p : Params K) (e : Effect) {s : K}
  {inp : Stereo K} (out : Stereo K) {rt : Runtime K} {y : Stereo K × Runtime K}

/-- A positive send splits the input off and feeds the next effect from this effect's raw output. -/
theorem routeStage_of_pos (hs : 0 < s) (hy : y = effectStep cfg p e (scaleFrame (1 - s) inp) rt) :
    routeStage cfg p e s ⟨inp, out, rt⟩ = ⟨scaleFrame s y.1, addFrame out y.1, y.2⟩ := by
  simp only [routeStage, if_pos hs, ← hy]

/-- Without a positive send the effects are chained through the accumulated output. -/
theorem routeStage_of_not_pos (hs : ¬ 0 < s) (hy : y = effectStep cfg p e inp rt) :
    routeStage cfg p e s ⟨inp, out, rt⟩ = ⟨addFrame out y.1, addFrame out y.1, y.2⟩ := by
  simp only [routeStage, if_neg hs, ← hy]

@[simp] theorem routeStage_eq (s : K) (r : RouteState K) : (routeStage cfg p e s r).rt.eq = r.rt.eq := effectStep_eq ..

/-- The effects leave the equalizer's state as they found it, so the equalizer runs on the state before them. -/
theorem route_of_routeEffects {bus : Stereo K} {r : RouteState K} (hr : routeEffects cfg p bus rt = r) :
    route cfg p bus rt = ((equalize cfg p.eq rt.eq r.out).1, { r.rt with eq := (equalize cfg p.eq rt.eq r.out).2 }) := by
  have heq : r.rt.eq = rt.eq := by simp only [← hr, routeEffects, routeStage_eq]
  rw [route, hr, heq]

end

/-- Settles O47: `routeStage_of_pos` and `routeStage_of_not_pos`; the tables are the model's rows. -/
theorem routeFollowsOrderAndSends : Obligations.RouteFollowsOrderAndSends := by
  intro K _ _ _ _ _ _ _ _ _ _ _ _ _ _
  refine ⟨⟨rfl, rfl, rfl, rfl, rfl, rfl⟩, fun _ => ⟨rfl, rfl, rfl, rfl, rfl, rfl⟩, fun cfg p e s inp out rt => ⟨?_, ?_⟩⟩
  · exact fun hs _ hy => routeStage_of_pos cfg p e out hs hy
  · exact fun hs _ hy => routeStage_of_not_pos cfg p e out hs hy

/-! ## Route in every order (42_routing_eq R240, R246) -/

section
variable {K : Type} [Field K]

theorem silence_addFrame (x : Stereo K) : addFrame silence x = x := by
  simp only [addFrame, silence, zero_add]

theorem scaleFrame_one_sub_zero (x : Stereo K) : scaleFrame (1 - 0) x = x := by
  rw [sub_zero, scaleFrame_one]

variable [LinearOrder K] (cfg : Config K) (p : Params K)

/-- Both kinds of send in one: a send of 0 takes the input whole, since 1 − 0 = 1. -/
theorem routeStage_of_nonneg (e : Effect) {s : K} (hs : 0 ≤ s) {inp : Stereo K} (out : Stereo K) {rt : Runtime K}
    {y : Stereo K × Runtime K} (hy : y = effectStep cfg p e (scaleFrame (1 - s) inp) rt) :
    routeStage cfg p e s ⟨inp, out, rt⟩ =
      ⟨if s = 0 then addFrame out y.1 else scaleFrame s y.1, addFrame out y.1, y.2⟩ := by
  rcases hs.eq_or_lt with rfl | hpos
  · rw [scaleFrame_one_sub_zero] at hy
    rw [routeStage_of_not_pos cfg p e out (lt_irrefl 0) hy, if_pos rfl]
  · rw [routeStage_of_pos cfg p e out hpos hy, if_neg hpos.ne']

/-- Route as its three turns: `x1`, `x2` the inputs handed on, `y0`, `y1`, `y2` what the effects answer. -/
theorem route_of_order {b x1 x2 : Stereo K} {rt : Runtime K} {e0 e1 e2 : Effect} {s0 s1 : K}
    {y0 y1 y2 : Stereo K × Runtime K} (h0 : 0 ≤ s0) (h1 : 0 ≤ s1)
    (hord : effectOrder p.routing.effectOrder = ⟨e0, e1, e2⟩)
    (hs0 : s0 = effectSend p.routing e0 e1) (hs1 : s1 = effectSend p.routing e1 e2)
    (hy0 : y0 = effectStep cfg p e0 (scaleFrame (1 - s0) b) rt)
    (hx1 : x1 = if s0 = 0 then y0.1 else scaleFrame s0 y0.1)
    (hy1 : y1 = effectStep cfg p e1 (scaleFrame (1 - s1) x1) y0.2)
    (hx2 : x2 = if s1 = 0 then addFrame y0.1 y1.1 else scaleFrame s1 y1.1)
    (hy2 : y2 = effectStep cfg p e2 x2 y1.2) :
    route cfg p b rt =
      ((equalize cfg p.eq rt.eq (addFrame (addFrame y0.1 y1.1) y2.1)).1,
       { y2.2 with eq := (equalize cfg p.eq rt.eq (addFrame (addFrame y0.1 y1.1) y2.1)).2 }) := by
  have stage0 : routeStage cfg p e0 s0 ⟨b, silence, rt⟩ = ⟨x1, y0.1, y0.2⟩ := by
    rw [routeStage_of_nonneg cfg p e0 h0 _ hy0, silence_addFrame, ← hx1]
  have stage1 : routeStage cfg p e1 s1 ⟨x1, y0.1, y0.2⟩ = ⟨x2, addFrame y0.1 y1.1, y1.2⟩ := by
    rw [routeStage_of_nonneg cfg p e1 h1 _ hy1, ← hx2]
  have stages : routeEffects cfg p b rt = routeStage cfg p e2 0 ⟨x2, addFrame y0.1 y1.1, y1.2⟩ := by
    simp only [routeEffects, hord, ← hs0, ← hs1, stage0, stage1]
  rw [routeStage_of_not_pos cfg p e2 _ (lt_irrefl 0) hy2] at stages
  rw [route_of_routeEffects cfg p stages]

/-- The example of R240: order 0 with all sends 0. -/
theorem route_of_zero_routing {b yR yC yV : Stereo K} {rt : Runtime K} {rv : ReverbState K} {cho : ChorusState K}
    {sl : Slot K} (hp : p.routing = ⟨0, 0, 0, 0, 0, 0, 0⟩) (hR : fxReverb cfg p.reverb rt.rv b = (yR, rv))
    (hC : fxChorus cfg p.chorus rt.chorus yR = (yC, cho))
    (hV : fxVariation cfg p.variation rt.variation (addFrame yR yC) = (yV, sl)) :
    route cfg p b rt =
      ((equalize cfg p.eq rt.eq (addFrame (addFrame yR yC) yV)).1,
       { rt with rv := rv, chorus := cho, variation := sl,
                 eq := (equalize cfg p.eq rt.eq (addFrame (addFrame yR yC) yV)).2 }) := by
  have hord : effectOrder p.routing.effectOrder = ⟨.reverb, .chorus, .variation⟩ := by rw [hp]; rfl
  have hs0 : 0 = effectSend p.routing .reverb .chorus := by rw [hp]; rfl
  have hs1 : 0 = effectSend p.routing .chorus .variation := by rw [hp]; rfl
  refine route_of_order cfg p (y0 := (yR, { rt with rv := rv })) (y1 := (yC, { rt with rv := rv, chorus := cho }))
    (y2 := (yV, { rt with rv := rv, chorus := cho, variation := sl }))
    le_rfl le_rfl hord hs0 hs1 ?_ (if_pos rfl).symm ?_ (if_pos rfl).symm ?_
  · rw [effectStep_reverb, scaleFrame_one_sub_zero, hR]
  · rw [effectStep_chorus, scaleFrame_one_sub_zero, hC]
  · rw [effectStep_variation, hV]

end

/-- Settles O48: `route_of_order`, and its instance `route_of_zero_routing`. -/
theorem serialRouteAddsTheEffects : Obligations.SerialRouteAddsTheEffects := by
  intro K _ _ _ _
  refine ⟨?_, fun cfg p _ _ _ _ _ _ _ _ => route_of_zero_routing cfg p⟩
  rintro cfg p b x0 x1 x2 rt e0 e1 e2 s0 s1 y0 y1 y2 h0 h1 hord hs0 hs1 rfl hy0 hx1 hy1 hx2 hy2 _ rfl
  exact route_of_order cfg p h0 h1 hord hs0 hs1 hy0 hx1 hy1 hx2 hy2

end Sys2Proof.Machine
end

section
/-! Registry: O56. -/

namespace Sys2Proof.Machine

/-! ## The processor of a type runs on the record of that type (43_registry R271, R272) -/

section
variable {K : Type} (cfg : Config K) (x : Stereo K) (p : GenericParams K) (slot : Slot K)

/-- External type t keeps its record at index t − 5 of the slot's external records. -/
theorem procExternal_of_index {t : Int} (h : 5 ≤ t) {k : Fin 123} (hk : (t - 5).toNat = k) :
    procExternal cfg t x p slot =
      ((cfg.ext.run t.toNat x p slot.ext[k]).1,
       { slot with ext := slot.ext.set k (cfg.ext.run t.toNat x p slot.ext[k]).2 }) := by
  obtain ⟨k, hlt⟩ := k
  subst hk
  exact dif_pos ⟨hlt, h⟩

end

section
variable {K : Type} [Zero K] [One K] [Add K] [Sub K] [Mul K] [Div K] [Neg K] [NatCast K] [IntCast K] [Max K] [Min K]
  [LT K] [DecidableLT K] [DecidableEq K] (cfg : Config K) (x : Stereo K) (p : GenericParams K) (slot : Slot K)

/-- Thru and vibrato have no record, and both are the identity (43_registry R274, 45_chorus_moddelay R333). -/
theorem runProcessor_of_no_record {t : Int} (h : t = 0 ∨ t = 2) : runProcessor cfg t x p slot = (x, slot) := by
  rcases h with rfl | rfl
  · exact if_pos rfl
  · rfl

theorem runProcessor_flanger :
    runProcessor cfg 1 x p slot =
      ((procFlanger cfg x p slot.flanger).1, { slot with flanger := (procFlanger cfg x p slot.flanger).2 }) := rfl

theorem runProcessor_compressor :
    runProcessor cfg 3 x p slot =
      ((procCompressor cfg x p slot.compressor).1,
       { slot with compressor := (procCompressor cfg x p slot.compressor).2 }) := rfl

theorem runProcessor_gate :
    runProcessor cfg 4 x p slot =
      ((procGate cfg x p slot.gate).1, { slot with gate := (procGate cfg x p slot.gate).2 }) := rfl

/-- Past the five types of the block the dispatch goes to the external processors. -/
theorem runProcessor_of_five_le {t : Int} (h : 5 ≤ t) : runProcessor cfg t x p slot = procExternal cfg t x p slot := by
  have h0 : t ≠ 0 := by omega
  have h1 : t ≠ 1 := by omega
  have h2 : t ≠ 2 := by omega
  have h3 : t ≠ 3 := by omega
  have h4 : t ≠ 4 := by omega
  rw [runProcessor, if_neg h0, if_neg h1, if_neg h2, if_neg h3, if_neg h4]

theorem runProcessor_external (k : Fin 123) :
    runProcessor cfg ((k.val : Int) + 5) x p slot =
      ((cfg.ext.run (k.val + 5) x p slot.ext[k]).1,
       { slot with ext := slot.ext.set k (cfg.ext.run (k.val + 5) x p slot.ext[k]).2 }) := by
  have hge : (5 : Int) ≤ k.val + 5 := by omega
  have hindex : ((k.val : Int) + 5 - 5).toNat = k := by omega
  have hid : ((k.val : Int) + 5).toNat = k.val + 5 := by omega
  rw [runProcessor_of_five_le cfg x p slot hge, procExternal_of_index cfg x p slot hge hindex, hid]

/-! ## The level scales the output (43_registry R273) -/

variable {cfg x p slot}

theorem slotRun_of_runProcessor {t : Int} {y : Stereo K} {slot' : Slot K}
    (h : runProcessor cfg t x p slot = (y, slot')) (level : K) :
    slotRun cfg slot t p level x = (scaleFrame level y, slot') := by
  rw [slotRun, h]

end

/-- Settles O56: `slotRun_of_runProcessor` at each type's row of the registry. -/
theorem slotRunUsesOnlyItsOwnRecord : Obligations.SlotRunUsesOnlyItsOwnRecord := by
  intro K _ _ _ _ _ _ _ _ _ _ _ _ _ _ cfg slot p level x
  refine ⟨fun t ht => ?noRecord, ?flanger, ?compressor, ?gate, fun k => ?external⟩
  case noRecord => exact slotRun_of_runProcessor (runProcessor_of_no_record cfg x p slot ht) level
  case flanger => exact slotRun_of_runProcessor (runProcessor_flanger cfg x p slot) level
  case compressor => exact slotRun_of_runProcessor (runProcessor_compressor cfg x p slot) level
  case gate => exact slotRun_of_runProcessor (runProcessor_gate cfg x p slot) level
  case external => exact slotRun_of_runProcessor (runProcessor_external cfg x p slot k) level

end Sys2Proof.Machine
end

section
/-! The reverb: O50, O51. -/

namespace Sys2Proof.Machine

section
variable {K : Type} [Zero K] [Add K] [Sub K] [Mul K] [DecidableEq K] (cfg : Config K) (p : ReverbParams K)

/-! ## The allpasses (44_reverb R299, R300) -/

theorem allpassStep_eq (j : Fin 4) (line : Line K) (t : K) {d y : K}
    (hd : d = ringRead cfg.apLen[j] line.buf line.w) (hy : y = d - cfg.apG * t) :
    allpassStep cfg j line t = (y, pushLine cfg.apLen[j] line (t + cfg.apG * y)) := by
  subst hy hd
  rfl

theorem allpassCascade_eq {ap : Vector (Line K) 4} {t : K} {a0 a1 a2 a3 : K × Line K}
    (h0 : a0 = allpassStep cfg 0 ap[0] t) (h1 : a1 = allpassStep cfg 1 ap[1] a0.1)
    (h2 : a2 = allpassStep cfg 2 ap[2] a1.1) (h3 : a3 = allpassStep cfg 3 ap[3] a2.1) :
    allpassCascade cfg ap t = (a3.1, #v[a0.2, a1.2, a2.2, a3.2]) := by
  subst h3 h2 h1 h0
  rfl

/-! ## The combs (44_reverb R297, R298, R303) -/

variable [One K] [NatCast K]

theorem combLane_of_count_le {k : Fin 8} (h : combCount cfg p ≤ k.val) (comb : Vector (Line K) 8) (q : K) :
    combLane cfg p comb q k = (0, comb[k]) := if_neg h.not_gt

theorem combLane_of_lt_count {k : Fin 8} (h : k.val < combCount cfg p) (comb : Vector (Line K) 8) (q : K) {d : K}
    (hd : d = ringRead cfg.combCap comb[k].buf ((comb[k].w : Int) - combLength cfg p k.val)) :
    combLane cfg p comb q k = (d, pushLine cfg.combCap comb[k] (q + combGain cfg p k.val * d)) := by
  subst hd
  exact if_pos h

/-- A comb is read before it is written, so its output does not depend on the frame's input. -/
theorem combLane_output (comb : Vector (Line K) 8) (q : K) (k : Fin 8) :
    (combLane cfg p comb q k).1 =
      if k.val < combCount cfg p then
        ringRead cfg.combCap comb[k].buf ((comb[k].w : Int) - combLength cfg p k.val) else 0 := by
  split
  case isTrue hon => rw [combLane_of_lt_count cfg p hon comb q rfl]
  case isFalse hoff => rw [combLane_of_count_le cfg p (Nat.le_of_not_lt hoff)]

theorem combBank_output (comb : Vector (Line K) 8) (q : K) :
    (combBank cfg p comb q).1 = ((List.finRange 8).map fun k => if k.val < combCount cfg p then
      ringRead cfg.combCap comb[k].buf ((comb[k].w : Int) - combLength cfg p k.val) else 0).foldl (· + ·) 0 := by
  simp only [combBank, sumInOrder, combLane_output]

theorem combBank_line (comb : Vector (Line K) 8) (q : K) (k : Fin 8) :
    (combBank cfg p comb q).2[k] = (combLane cfg p comb q k).2 := getElem_ofFn_fin _ k

/-! ## The network (44_reverb R296, R301, R302) -/

variable [Div K]

theorem fxReverb_eq {rv : ReverbState K} {x : Stereo K} {q : K × Line K} {t : K × Vector (Line K) 8}
    {a : K × Vector (Line K) 4} (hq : q = predelay cfg p rv.pd ((x.l + x.r) / 2))
    (ht : t = combBank cfg p rv.comb q.1) (ha : a = allpassCascade cfg rv.ap t.1) :
    fxReverb cfg p rv x = (⟨p.level * a.1, p.level * a.1⟩, ⟨q.2, t.2, a.2⟩) := by
  subst ha ht hq
  rfl

end

/-- Settles O50: combs and allpasses both write with `pushLine`, and the network is its stages in sequence. -/
theorem combsFeedBackWithinTheCount : Obligations.CombsFeedBackWithinTheCount := by
  intro K _ _ _ _ _ _ _ _ _ _ _ _ _ _
  refine ⟨fun cfg p comb q k _ hwf hw => ⟨fun hoff => ?silent, fun hon d hd => ?running⟩,
    fun cfg j line t d y _ hwf hw hd hy => ?allpass, fun cfg p rv x u t q a0 a1 a2 a3 hu hq ht h0 h1 h2 h3 => ?network⟩
  case silent => exact combLane_of_count_le cfg p hoff comb q
  case running =>
    rw [combLane_of_lt_count cfg p hon comb q hd]
    exact ⟨rfl, rfl, fun i hi => ringRead_ringWrite_pointer hwf hw hi _⟩
  case allpass =>
    rw [allpassStep_eq cfg j line t hd hy]
    exact ⟨rfl, rfl, fun i hi => ringRead_ringWrite_pointer hwf hw hi _⟩
  case network =>
    subst hu
    have hsum : t = (combBank cfg p rv.comb q.1).1 := ht.trans (combBank_output cfg p rv.comb q.1).symm
    have hcascade := allpassCascade_eq cfg h0 h1 h2 h3
    rw [hsum] at hcascade
    rw [fxReverb_eq cfg p hq rfl hcascade.symm]
    exact ⟨rfl, rfl, combBank_line cfg p rv.comb q.1, rfl⟩

/-! ## The predelay (44_reverb R294, R295) -/

section
variable {K : Type} [Mul K] (cfg : Config K) (p : ReverbParams K)

/-- Dp is below the capacity whatever the block's `floor` is. -/
theorem predelayLength_lt (hcap : 0 < cfg.pdCap) : predelayLength cfg p < cfg.pdCap := by
  rw [predelayLength, clampInt]
  omega

variable [Zero K] [DecidableEq K]

theorem predelay_line (pd : Line K) (u : K) : (predelay cfg p pd u).2 = pushLine cfg.pdCap pd u := rfl

variable [One K] [Add K] [Sub K] [Div K] [Neg K] [NatCast K] [IntCast K] [Max K] [Min K] [LT K] [DecidableLT K]

/-- A delay of 0 reads what the frame writes at the pointer; every other delay below the capacity reads the ring as it was. -/
theorem delayRead_ringWrite_pointer {cap len : Nat} {b : RingMemory K} (hwf : ringWf cap b = true) (h : len < cap)
    (w : Nat) (v : K) :
    delayRead cap (ringWrite cap b w v) w len = if len = 0 then v else ringRead cap b ((w : Int) - len) := by
  rw [delayRead_eq_ringRead, ringRead_ringWrite hwf]
  simp only [ringIndex_sub_eq_self_iff h]

theorem predelay_output {pd : Line K} (hwf : ringWf cfg.pdCap pd.buf = true) (hcap : 0 < cfg.pdCap) (u : K) :
    (predelay cfg p pd u).1 =
      if predelayLength cfg p = 0 then u else ringRead cfg.pdCap pd.buf ((pd.w : Int) - predelayLength cfg p) :=
  delayRead_ringWrite_pointer hwf (predelayLength_lt cfg p hcap) pd.w u

end

/-- Settles O51: the two cases are those of `predelay_output`. -/
theorem predelayWritesBeforeItReads : Obligations.PredelayWritesBeforeItReads := by
  intro K _ _ _ _ _ _ _ _ _ _ _ _ _ _ cfg p pd u hwf hw
  rw [predelay_output cfg p hwf (Nat.zero_lt_of_lt hw), predelay_line]
  have hstored : ringRead cfg.pdCap (pushLine cfg.pdCap pd u).buf pd.w = u :=
    (ringRead_ringWrite_pointer hwf hw hw u).trans (if_pos rfl)
  exact ⟨rfl, hstored, fun h0 => if_pos h0, fun hpos => if_neg hpos.ne'⟩

end Sys2Proof.Machine
end

section
/-! Modulation: O53, O55. -/

namespace Sys2Proof.Machine

section
variable {K : Type} [Field K] {cfg : Config K} {turn : K}

/-! ## Advancing a phase (45_chorus_moddelay R322) -/

theorem advancePhase_val (hturn : turn = 2 * cfg.num.pi) (rate : K) (ph : Angle K) :
    (advancePhase cfg rate ph).val = modScalar cfg.num (ph.val + turn * rate / cfg.fs) turn := by
  subst hturn
  rfl

/-- Whatever the block's `floor` is, an advance takes off whole turns. -/
theorem advancePhase_val_eq_sub_turns (hturn : turn = 2 * cfg.num.pi) (rate : K) (ph : Angle K) :
    ∃ k : Int, (advancePhase cfg rate ph).val = ph.val + turn * rate / cfg.fs - k * turn :=
  ⟨_, by rw [advancePhase_val hturn, modScalar, mul_comm turn (Int.cast _)]⟩

variable [LinearOrder K] [IsStrictOrderedRing K] [FloorRing K]

theorem advancePhase_val_mem (hn : cfg.num.IsExact) (hturn : turn = 2 * cfg.num.pi) (rate : K) (ph : Angle K) :
    0 ≤ (advancePhase cfg rate ph).val ∧ (advancePhase cfg rate ph).val < turn := by
  subst hturn
  exact phaseLegal_advancePhase hn rate ph

/-- From a phase in [0, 2π), a step below 2π passes 2π at most once. -/
theorem advancePhase_val_of_step_lt_turn (hn : cfg.num.IsExact) (hturn : turn = 2 * cfg.num.pi) {rate step : K}
    {ph : Angle K} (hstep : step = turn * rate / cfg.fs) (hph0 : 0 ≤ ph.val) (hph1 : ph.val < turn) (hstep0 : 0 ≤ step)
    (hstep1 : step < turn) :
    (advancePhase cfg rate ph).val = if ph.val + step ≥ turn then ph.val + step - turn else ph.val + step := by
  rw [advancePhase_val hturn, ← hstep]
  split
  case isTrue hwraps => exact modScalar_of_wrap hn hwraps (by linarith)
  case isFalse hstays => exact modScalar_of_mem hn (add_nonneg hph0 hstep0) (not_le.1 hstays)

end

/-- Settles O53: the laws of `advancePhase` in any unit of angle, and at 2π radians. -/
theorem phasesWrapAtTwoPi : Obligations.PhasesWrapAtTwoPi := by
  refine ⟨fun K _ _ _ _ cfg rate ph turn hn hturn => ?anyUnit, fun z cfg rate ph hnum => ?radians, isExact_machine, rfl⟩
  case anyUnit =>
    exact ⟨advancePhase_val_mem hn hturn rate ph, advancePhase_val_eq_sub_turns hturn rate ph,
      fun _ hstep => advancePhase_val_of_step_lt_turn hn hturn hstep⟩
  case radians =>
    have hn : cfg.num.IsExact := hnum ▸ isExact_real z
    have hturn : 2 * Real.pi = 2 * cfg.num.pi := by rw [hnum, Numerics.real_pi]
    refine ⟨advancePhase_val_mem hn hturn rate ph, advancePhase_val_eq_sub_turns hturn rate ph,
      fun _ hstep => advancePhase_val_of_step_lt_turn hn hturn hstep, ?_, ?_⟩
    · rw [hnum, Numerics.real_sin]
    · rw [hnum, Numerics.real_cos]

section
variable {K : Type} [Field K] [LinearOrder K] (cfg : Config K)

/-! ## The chorus (45_chorus_moddelay R326 to R330) -/

theorem fxChorus_eq (p : ChorusParams K) (st : ChorusState K) (x : Stereo K) {yL yR fb xf : K}
    (hL : yL = fracRead cfg.num cfg.chorusCap st.bufL st.w (chorusDelay cfg p st.phL))
    (hR : yR = fracRead cfg.num cfg.chorusCap st.bufR st.w (chorusDelay cfg p st.phR))
    (hfb : fb = cfg.chorusFbMax * p.feedback) (hxf : xf = cfg.chorusFbMax * p.crossFeedback) :
    fxChorus cfg p st x =
      (⟨chorusBlend p x.l yL, chorusBlend p x.r yR⟩,
       { bufL := ringWrite cfg.chorusCap st.bufL st.w (x.l + fb * yL + xf * yR)
         bufR := ringWrite cfg.chorusCap st.bufR st.w (x.r + fb * yR + xf * yL)
         w := (st.w + 1) % cfg.chorusCap
         phL := advancePhase cfg p.rate st.phL
         phR := advancePhase cfg p.rate st.phR }) := by
  subst hL hR hfb hxf
  rfl

/-! ## The flanger (45_chorus_moddelay R332) -/

theorem procFlanger_eq (p : GenericParams K) (st : FlangerState K) (x : Stereo K) {d fb yL yR : K}
    (hd : d = cfg.fs * (cfg.flangerBase + cfg.flangerDepthMax * p.p2 *
      wave cfg.num (flangerWaveform cfg.num p.p4) st.ph))
    (hfb : fb = cfg.flangerFbMax * p.p3)
    (hL : yL = fracRead cfg.num cfg.flangerCap st.bufL st.w d)
    (hR : yR = fracRead cfg.num cfg.flangerCap st.bufR st.w d) :
    procFlanger cfg x p st =
      (⟨(x.l + yL) / 2, (x.r + yR) / 2⟩,
       { bufL := ringWrite cfg.flangerCap st.bufL st.w (x.l + fb * yL)
         bufR := ringWrite cfg.flangerCap st.bufR st.w (x.r + fb * yR)
         w := (st.w + 1) % cfg.flangerCap
         ph := advancePhase cfg (10 * p.p1) st.ph }) := by
  subst hL hR hd hfb
  simp only [procFlanger, one_div_mul_eq_div, advance]

end

section
variable {K : Type} [Field K] [LinearOrder K] [FloorRing K] {n : Numerics K} {p4 : K}

/-! ### The waveform select: p4 by quarters -/

theorem flangerWaveform_of_floor (hn : n.IsExact) {k : Int} (hk : ⌊4 * p4⌋ = k) :
    flangerWaveform n p4 =
      if min 3 k ≤ 0 then .sine else if min 3 k = 1 then .triangle else if min 3 k = 2 then .square else .saw := by
  subst hk
  simp only [flangerWaveform, hn.floor_eq]

variable [IsStrictOrderedRing K]

theorem flangerWaveform_sine (hn : n.IsExact) (h : p4 < 1 / 4) : flangerWaveform n p4 = .sine := by
  have hk : ⌊4 * p4⌋ < 1 := Int.floor_lt.2 (by push_cast; linarith)
  rw [flangerWaveform_of_floor hn rfl, if_pos (by omega)]

theorem flangerWaveform_triangle (hn : n.IsExact) (h0 : 1 / 4 ≤ p4) (h1 : p4 < 1 / 2) :
    flangerWaveform n p4 = .triangle :=
  flangerWaveform_of_floor hn (k := 1) (Int.floor_eq_iff.2 ⟨by push_cast; linarith, by push_cast; linarith⟩)

theorem flangerWaveform_square (hn : n.IsExact) (h0 : 1 / 2 ≤ p4) (h1 : p4 < 3 / 4) : flangerWaveform n p4 = .square :=
  flangerWaveform_of_floor hn (k := 2) (Int.floor_eq_iff.2 ⟨by push_cast; linarith, by push_cast; linarith⟩)

theorem flangerWaveform_saw (hn : n.IsExact) (h : 3 / 4 ≤ p4) : flangerWaveform n p4 = .saw := by
  have hk : 3 ≤ ⌊4 * p4⌋ := Int.le_floor.2 (by push_cast; linarith)
  rw [flangerWaveform_of_floor hn rfl, min_eq_left hk]
  rfl

end

/-- Settles O55: by `fxChorus_eq` and `procFlanger_eq` each line is written once, at the pointer, with what was read before. -/
theorem chorusReadsBothLinesBeforeItWrites : Obligations.ChorusReadsBothLinesBeforeItWrites := by
  intro K _ _ _ _
  refine ⟨fun cfg p st x yL yR fb xf hwfL hwfR hw hL hR hfb hxf => ?chorus,
    fun n p4 hn => ⟨flangerWaveform_sine hn, flangerWaveform_triangle hn, flangerWaveform_square hn,
      flangerWaveform_saw hn⟩,
    fun cfg p st x d fb yL yR hwfL hwfR hw hd hfb hL hR => ?flanger⟩
  case chorus =>
    rw [fxChorus_eq cfg p st x hL hR hfb hxf]
    exact ⟨rfl, fun j hj => ⟨ringRead_ringWrite_pointer hwfL hw hj _, ringRead_ringWrite_pointer hwfR hw hj _⟩,
      rfl, rfl, rfl⟩
  case flanger =>
    rw [procFlanger_eq cfg p st x hd hfb hL hR]
    exact ⟨rfl, fun j hj => ⟨ringRead_ringWrite_pointer hwfL hw hj _, ringRead_ringWrite_pointer hwfR hw hj _⟩,
      rfl, rfl⟩

end Sys2Proof.Machine
end

section
/-! The gate's three phases: O59. -/

namespace Sys2Proof.Machine

/-! ## The gate open and holding (46_dynamics R356) -/

section
variable {K : Type} [Field K] [LinearOrder K] [FloorRing K]

theorem gateHold_eq {cfg : Config K} (hn : cfg.num.IsExact) (p2 : K) :
    gateHold cfg p2 = ⌊1 / 2 * p2 * cfg.fs⌋.toNat := by
  rw [gateHold, hn.floor_eq]

variable [IsStrictOrderedRing K]

/-- An open frame passes unchanged, whatever the record was, and starts the hold count again. -/
theorem procGate_of_open (cfg : Config K) {x : Stereo K} {p : GenericParams K} (h : gateThreshold cfg p.p1 < levelOf x)
    (st : GateState K) : procGate cfg x p st = (x, ⟨1, gateHold cfg p.p2⟩) := by
  rcases procGate_cases cfg x p st with ⟨-, hopen⟩ | ⟨hle, -⟩ | ⟨hle, -⟩
  · exact hopen
  · exact absurd h hle.not_gt
  · exact absurd h hle.not_gt

/-- A holding frame is scaled by the gain, which stays, and uses up one count. -/
theorem procGate_of_holding (cfg : Config K) {x : Stereo K} {p : GenericParams K}
    (h : levelOf x ≤ gateThreshold cfg p.p1) {st : GateState K} (hcount : 0 < st.h) :
    procGate cfg x p st = (scaleFrame st.g x, ⟨st.g, st.h - 1⟩) := by
  rcases procGate_cases cfg x p st with ⟨hlt, -⟩ | ⟨-, -, hholding⟩ | ⟨-, hzero, -⟩
  · exact absurd hlt h.not_gt
  · exact hholding
  · exact absurd hzero hcount.ne'

end

/-- Settles O59: one lemma per phase, with the hold time and the decay in exact arithmetic. -/
theorem gateOpensHoldsAndCloses : Obligations.GateOpensHoldsAndCloses := by
  intro K _ _ _ _ cfg x p g h thr hn hfs hp3 hthr
  have hThr : gateThreshold cfg p.p1 = thr := by rw [gateThreshold_eq, hthr]
  rw [← hThr, ← levelOf_eq]
  refine ⟨fun hopen => ?opening, fun hle hcount => ?holding, fun hle hzero c hc => ?closing⟩
  case opening => rw [procGate_of_open cfg hopen, gateHold_eq hn]
  case holding => rw [procGate_of_holding cfg hle hcount, scaleFrame]
  case closing =>
    have hDecay : gateDecay cfg p.p3 = c := by rw [gateDecay_eq hfs hp3, hc]
    rw [hzero, procGate_of_closing cfg hle, hDecay, scaleFrame]

end Sys2Proof.Machine
end

section
/-! What a step waits for, what stops it, and the errors of PROC (60_exceptions R380 to R382, R393): O6, O7, O41. -/

namespace Sys2Proof

section
variable {K : Type}

/-! ## A part of a record (30_encoding R138) -/

/-- Whatever the decoder says of the items on the port, but that they are incomplete, it still says with more items behind
them. -/
theorem decodeFor_append_cases (cfg : Config K) (items more : List (PortItem K)) :
    decodeFor cfg items = .incomplete ∨
    (∃ i rest, decodeFor cfg (items ++ more) = .instr i (rest ++ more)) ∨
    (∃ rest, decodeFor cfg (items ++ more) = .refused (rest ++ more)) ∨
    decodeFor cfg (items ++ more) = .wrongItem := by
  obtain ⟨hgot, hwrong⟩ := settled_record cfg items more
  beta_reduce at hgot hwrong
  unfold decodeFor
  cases htake : thenTake (takeByte items) (takeRecord cfg) with
  | got read rest =>
    rw [hgot read rest htake]
    cases read with
    | some i => exact .inr (.inl ⟨i, rest, rfl⟩)
    | none => exact .inr (.inr (.inl ⟨rest, rfl⟩))
  | short => exact .inl rfl
  | wrong =>
    rw [hwrong htake]
    exact .inr (.inr (.inr rfl))

/-- A record without its last items is incomplete: had the decoder read one in it, those items would be left over. -/
theorem decodeFor_incomplete_of_append {cfg : Config K} {items more : List (PortItem K)} {i : Instr K}
    (h : decodeFor cfg (items ++ more) = .instr i []) (hmore : more ≠ []) : decodeFor cfg items = .incomplete := by
  rcases decodeFor_append_cases cfg items more with hinc | ⟨j, rest, hread⟩ | ⟨rest, hread⟩ | hread
  · exact hinc
  · have hleft : rest ++ more = [] := (Decoded.instr.inj (hread.symm.trans h)).2
    exact absurd (List.append_eq_nil_iff.1 hleft).2 hmore
  · exact nomatch hread.symm.trans h
  · exact nomatch hread.symm.trans h

theorem decodeFor_take_encodeFor {cfg : Config K} {i : Instr K} {k : Nat} (hwf : i.wellFormedFor cfg = true)
    (hk : k < (encodeFor cfg i).length) : decodeFor cfg ((encodeFor cfg i).take k) = .incomplete := by
  have hwhole : decodeFor cfg ((encodeFor cfg i).take k ++ (encodeFor cfg i).drop k) = .instr i [] := by
    rw [List.take_append_drop, ← List.append_nil (encodeFor cfg i)]
    exact decodeFor_encodeFor hwf []
  exact decodeFor_incomplete_of_append hwhole (mt List.drop_eq_nil_iff.1 hk.not_ge)

end

namespace Machine

/-! ## Waiting -/

theorem step_of_incomplete {s : State} (h : decode s.port = .incomplete) : step s = .next s := by
  rw [step, h]; rfl

/-- Settles O6: the empty port and a part of a record are both incomplete. -/
theorem stepWaitsForAWholeRecord : Obligations.StepWaitsForAWholeRecord := by
  constructor
  · intro s hport
    exact step_of_incomplete (by rw [hport]; rfl)
  · intro s i k hwf hk hport
    exact step_of_incomplete (by rw [hport]; exact decodeFor_take_encodeFor hwf hk)

/-! ## What stops a step -/

section
variable {K : Type} [Zero K] [One K] [Add K] [Sub K] [Mul K] [Div K] [Neg K] [NatCast K] [IntCast K] [Max K] [Min K]
  [LT K] [DecidableLT K] [DecidableEq K]

theorem execFor_answers_next (cfg : Config K) (i : Instr K) (s : State K) : ∃ t, execFor cfg i s = .next t := by
  obtain ⟨t, ht, -⟩ := execFor_leaves cfg i s
  exact ⟨t, ht⟩

end

theorem exec_answers_next (i : Instr) (s : State) : ∃ t, exec i s = .next t := by
  rw [← execFor_machine]
  exact execFor_answers_next Config.machine i s

theorem step_of_not_portTyped {s : State} (h : ¬ PortTyped s) : step s = .fault .wrongItem := by
  rw [step, Classical.not_not.1 h]; rfl

/-- A record performed, refused or awaited leaves a next state. -/
theorem safeStep_of_portTyped {s : State} (h : PortTyped s) : SafeStep s := by
  rcases step_cases s with ⟨i, rest, -, hstep⟩ | ⟨rest, -, hstep⟩ | ⟨-, hstep⟩ | ⟨hwrong, -⟩
  · obtain ⟨t, ht⟩ := exec_answers_next i { s with port := rest }
    exact ⟨t, hstep.trans ht⟩
  · exact ⟨_, hstep⟩
  · exact ⟨_, hstep⟩
  · exact absurd hwrong h

/-- Settles O7: every meaning is one of those of `Leaves`, each of which answers a next state; of the endings of a step only
the wrong item is a fault. -/
theorem onlyAWrongItemStopsAStep : Obligations.OnlyAWrongItemStopsAStep := by
  refine ⟨exec_answers_next, fun K => execFor_answers_next, fun cfg i s => ?binary64, fun _ => safeStep_of_portTyped,
    fun _ => step_of_not_portTyped⟩
  case binary64 =>
    -- The block's arithmetic is the one that `Binary64.arithmetic` writes out: none is looked up.
    apply -synthAssignedInstances execFor_answers_next

/-! ## ContractError (60_exceptions R381, R382) -/

/-- The frame count is checked first, whatever the level count is. -/
theorem checkContract_of_frameCount {nF : Nat} (hF : nF ≠ 16) (nLv : Nat) : checkContract nF nLv = some .frameCount :=
  if_pos hF

theorem checkContract_of_levelCount {nLv : Nat} (h0 : nLv ≠ 0) (h16 : nLv ≠ 16) :
    checkContract 16 nLv = some .levelCount := by
  rw [checkContract, if_neg (not_not_intro rfl), if_pos ⟨h0, h16⟩]

/-- PROC with a broken contract only raises its error. -/
theorem exec_proc_of_contractError {frames : List Stereo} {levels : List Scalar} {code : ContractCode}
    (h : checkContract frames.length levels.length = some code) (s : State) :
    exec (.proc frames levels) s = .next { s with result := some (.error code) } := by
  rw [← execFor_machine, execFor_proc]
  rcases processCommand_cases Config.machine frames levels s with ⟨raised, hraised, hproc⟩ | ⟨hnone, -⟩
  · obtain rfl : raised = code := Option.some.inj (hraised.symm.trans h)
    rw [hproc]; rfl
  · exact nomatch hnone.symm.trans h

/-- Settles O41: a wrong frame count is code 1, a wrong level count alone is code 2, and either is all that PROC answers. -/
theorem wrongCountsRaiseContractErrors : Obligations.WrongCountsRaiseContractErrors := by
  refine fun frames levels s => ⟨fun hF => ?frameCount, fun hF h0 h16 => ?levelCount⟩
  case frameCount => exact exec_proc_of_contractError (checkContract_of_frameCount hF _) s
  case levelCount => exact exec_proc_of_contractError (by rw [hF]; exact checkContract_of_levelCount h0 h16) s

end Machine

end Sys2Proof
end
